-- ==== Sys2Proof/Word.lean ====
section
/-! DEFINITION. The word types of the block: byte, 16-bit register, 32-bit register (spec 00_scope R8, 10_state R21 to R24). -/

namespace Sys2Proof

/-- A byte: 8 bits, an unsigned value 0..255 (R8). -/
abbrev Byte := BitVec 8

/-- The width of LEN, CAP, CRCR, RLEN, TXLEN and CAPL (R21, R22, R29). -/
abbrev Half := BitVec 16

/-- The width of TMO and ERRINFO (R21, R24). -/
abbrev Word := BitVec 32

end Sys2Proof
end

