-- ==== Sys2Proof/Config.lean ====
section
/-! DEFINITION. The implementation parameters of rule R7 and the free values the spec leaves open.
A constant declared `opaque` has no body: no proof can see what it is. -/

namespace Sys2Proof

/-- The parameters of 00_scope R7 with their constraints (R7, 70 R233(1)).
A value of this type satisfies every constraint, so no statement need assume one. -/
structure Params where
  /-- MAX_PAYLOAD: the longest payload a build step accepts. -/
  maxPayload    : Nat
  /-- ACK_FRAME: six bytes. -/
  ackFrame      : List Byte
  /-- ERR_FRAME: six bytes, different from ACK_FRAME. -/
  errFrame      : List Byte
  /-- ERR_TRAIL: how many bytes of the ErrorFrame follow its first six. -/
  errTrail      : Nat
  /-- WAKEUP_FRAME: at least one byte, sent as it is. -/
  wakeupFrame   : List Byte
  /-- PROBE_CMD: the no-op command of the re-synchronisation probe. -/
  probeCmd      : Byte
  /-- PROBE_PAYLOAD: no longer than MAX_PAYLOAD. -/
  probePayload  : List Byte
  /-- LASTCMD_RESET: the value of LASTCMD after reset. -/
  lastcmdReset  : Byte
  /-- DCAP: capacity of DBUF. -/
  dcap          : Nat
  /-- PCAP: capacity of PBUF. -/
  pcap          : Nat
  /-- RXCAP: capacity of RXBUF. -/
  rxcap         : Nat
  maxPayload_le     : maxPayload ≤ 253
  ackFrame_length   : ackFrame.length = 6
  errFrame_length   : errFrame.length = 6
  ack_differs_err   : (ackFrame == errFrame) = false
  wakeup_nonempty   : 1 ≤ wakeupFrame.length
  probePayload_le   : probePayload.length ≤ maxPayload
  two_le_dcap       : 2 ≤ dcap
  maxPayload_le_pcap : maxPayload ≤ pcap
  deriving DecidableEq, Repr

/-- The six byte buffers of 10_state R30. -/
inductive Buf where
  | dbuf | pbuf | uidbuf | cascbuf | txbuf | rxbuf
  deriving DecidableEq, Repr

/-- What the TRANSPORT decides of one call (20_memory R58, R59): it succeeds, times out, or fails below the
protocol layer with an opaque value. -/
inductive Verdict where
  | ok
  | timeout
  | error (info : Word)
  deriving DecidableEq, Repr, Inhabited

/-- One answer of the TRANSPORT oracle: the bytes that arrive from the chip while the call is open, the verdict, and
(for a failed receive) how many pending bytes are consumed and lost (R59, U1 to U3; log 7, log 8). -/
structure Answer where
  arrived : List Byte
  verdict : Verdict
  lost    : Nat
  deriving DecidableEq, Repr, Inhabited

/-- The registers whose value after reset the spec leaves unspecified (10_state R32, 70 R231). -/
structure RegDraw where
  len   : Half
  cmd   : Byte
  tfi   : Byte
  cap   : Half
  tmo   : Word
  crcr  : Half
  dcsr  : Byte
  rlen  : Half
  txlen : Half
  capl  : Half
  plen  : Byte
  rtfi  : Byte
  rcc   : Byte
  deriving DecidableEq, Repr, Inhabited

namespace Config

/-- A set of parameter values that meets R7: it only shows that the constraints can be met together. -/
def someParams : Params where
  maxPayload := 0
  ackFrame := [0, 0, 0, 0, 0, 0]
  errFrame := [1, 0, 0, 0, 0, 0]
  errTrail := 0
  wakeupFrame := [0]
  probeCmd := 0
  probePayload := []
  lastcmdReset := 0
  dcap := 2
  pcap := 0
  rxcap := 0
  maxPayload_le := by decide
  ackFrame_length := by decide
  errFrame_length := by decide
  ack_differs_err := by decide
  wakeup_nonempty := by decide
  probePayload_le := by decide
  two_le_dcap := by decide
  maxPayload_le_pcap := by decide

/-- FREE VALUE (log 4): some parameters that meet R7. -/
opaque chosenParams [Inhabited Params] : Params

/-- The parameters of the machine after reset: unknown but for R7's constraints ("none has a value in the source"). -/
def params : Params := @chosenParams ⟨someParams⟩

/-- FREE VALUE (log 5): the unspecified registers after the n-th reset (R32: "an independent draw for each"). -/
opaque powerOnRegs : Nat → RegDraw

/-- FREE VALUE (log 17): what a buffer byte that nothing has written since the n-th reset holds (R32, R33). -/
opaque powerOnByte : Nat → Buf → Nat → Byte

/-- FREE VALUE (log 6): the transport's pending bytes when the machine starts (R231: "whatever it was"). -/
opaque pendingAtReset : List Byte

/-- FREE VALUE (log 7): the TRANSPORT's n-th undetermined answer (U1). -/
opaque freeAnswer : Nat → Answer

/-- FREE VALUE (log 9): byte k of RXBUF after the n-th draw for a failed payload receive (R163, U17). -/
opaque freeByte : Nat → Nat → Byte

/-- FREE VALUE (log 10): RLEN after an append whose LEN + 2 does not fit RLEN's 16 bits. -/
opaque longRlen : Nat → Half

end Config
end Sys2Proof
end

