-- ==== Sys2Proof/Syntax.lean ====
section
/-! DEFINITION. The one inductive of instructions: a constructor for each row of spec/opcode_table.json
(30_encoding R70: operation port and wire). -/

namespace Sys2Proof

/-- The nine operations of the operation port (R86), then the eleven wire and layout formats (R75 to R80, R84, R85). -/
inductive Instr where
  /-- CRCA, OPC 0x00 (R103). -/
  | crca
  /-- CRCA.APP, OPC 0x01 (R104). -/
  | crcaApp
  /-- CRCB, OPC 0x02 (R105). -/
  | crcb
  /-- CRCB.APP, OPC 0x03 (R106). -/
  | crcbApp
  /-- DCS, OPC 0x04 (R109). -/
  | dcs
  /-- CASC, OPC 0x10 (R121). -/
  | casc
  /-- FBUILD, OPC 0x20 (R134). -/
  | fbuild
  /-- FCMD, OPC 0x21 (R136). -/
  | fcmd
  /-- FRECV, OPC 0x22 (R144). -/
  | frecv
  /-- NF-H2C, the command frame the block emits (R75): command code and payload. -/
  | nfH2C (cc : Byte) (payload : List Byte)
  /-- NF-C2H, the response frame the block accepts (R75): command code and payload. -/
  | nfC2H (cc : Byte) (payload : List Byte)
  /-- ACK, the AckFrame (R76). -/
  | ack
  /-- ERR, the ErrorFrame (R77): its first six bytes are ERR_FRAME, `tail` is the ERR_TRAIL bytes after them. -/
  | err (tail : List Byte)
  /-- APPERR, the application-level error pattern (R78): its last three bytes are not inspected. -/
  | apperr (x0 x1 x2 : Byte)
  /-- EXT, the extended-frame marker (R79): what follows the five marker bytes, of unknown length. -/
  | ext (rest : List Byte)
  /-- WAKE, the wake-up frame (R80). -/
  | wake
  /-- CRC-PAIR: `crc_lo` then `crc_hi` (R84). -/
  | crcPair (lo hi : Byte)
  /-- CASC4 (R85). -/
  | casc4 (u0 u1 u2 u3 : Byte)
  /-- CASC7 (R85). -/
  | casc7 (u0 u1 u2 u3 u4 u5 u6 : Byte)
  /-- CASC10 (R85). -/
  | casc10 (u0 u1 u2 u3 u4 u5 u6 u7 u8 u9 : Byte)
  deriving DecidableEq, Repr

end Sys2Proof
end

