-- ==== Sys2Proof/WellFormed.lean ====
section
/-! DEFINITION. Which instruction terms the encodings admit: a normal frame carries at most 253 payload bytes
(R71, R72), an ErrorFrame ends with exactly ERR_TRAIL bytes (R77). -/

namespace Sys2Proof

/-- The instruction is one the spec's encodings can write, under the parameters `c`. -/
def Instr.wf (c : Params) : Instr → Bool
  | .nfH2C _ payload => decide (payload.length ≤ 253)
  | .nfC2H _ payload => decide (payload.length ≤ 253)
  | .err tail => decide (tail.length = c.errTrail)
  | .crca => true
  | .crcaApp => true
  | .crcb => true
  | .crcbApp => true
  | .dcs => true
  | .casc => true
  | .fbuild => true
  | .fcmd => true
  | .frecv => true
  | .ack => true
  | .apperr _ _ _ => true
  | .ext _ => true
  | .wake => true
  | .crcPair _ _ => true
  | .casc4 _ _ _ _ => true
  | .casc7 _ _ _ _ _ _ _ => true
  | .casc10 _ _ _ _ _ _ _ _ _ _ => true

end Sys2Proof
end

