-- ==== Sys2Proof/Decode.lean ====
section
/-! DEFINITION. The two encoding domains of 30_encoding R70: the operation port and the wire. The checksums a frame
carries, the frame builder, the encoder, and the decoder, total on any bytes and rejecting by name. -/

namespace Sys2Proof

/-- PREAMBLE, `00 00 FF` (R6). -/
def preamble : List Byte := [0x00, 0x00, 0xFF]

/-- TFI_H2C, the direction byte host to chip (R6). -/
def tfiH2C : Byte := 0xD4

/-- TFI_C2H, the direction byte chip to host (R6). -/
def tfiC2H : Byte := 0xD5

/-- POSTAMBLE (R6). -/
def postamble : Byte := 0x00

/-- CT, the cascade tag (R6). -/
def cascadeTag : Byte := 0x88

/-- `Σ S`: the sum of the bytes of S as a natural number (R8). -/
def byteSum : List Byte → Nat
  | [] => 0
  | b :: bs => b.toNat + byteSum bs

/-- The length checksum `(0x100 - LEN) mod 256` (R73). -/
def lcs (len : Byte) : Byte := BitVec.ofInt 8 (0x100 - (len.toNat : Int))

/-- The data checksum `(0x100 - tfi - command - Σ payload) mod 256`, the mathematical residue (R74, 40 R108). -/
def dcs (tfi command : Byte) (payload : List Byte) : Byte :=
  BitVec.ofInt 8 (0x100 - (tfi.toNat : Int) - (command.toNat : Int) - (byteSum payload : Int))

/-- The LEN byte of a normal frame: `payload_len + 2` (R72). -/
def lenByte (payload : List Byte) : Byte := BitVec.ofNat 8 (payload.length + 2)

/-- Format NF (R71): the normal frame with direction byte `tfi`. -/
def normalFrame (tfi cc : Byte) (payload : List Byte) : List Byte :=
  preamble ++ [lenByte payload, lcs (lenByte payload), tfi, cc] ++ payload ++ [dcs tfi cc payload, postamble]

/-- `build_frame(cc, payload)` (42 R131): format NF-H2C (R75). -/
def buildFrame (cc : Byte) (payload : List Byte) : List Byte := normalFrame tfiH2C cc payload

/-- The five bytes of APPERR that are recognised (R78). -/
def apperrMarker : List Byte := preamble ++ [0x01, 0xFF]

/-- The five bytes of EXT that are recognised (R79). -/
def extMarker : List Byte := preamble ++ [0xFF, 0xFF]

/-- Where an encoding is met: the operation port (R86); the bytes received as an acknowledge (R82); the bytes received
as a response (R82); the frames sent (R75, R80); the layouts written to DBUF and CASCBUF (R84, R85). -/
inductive Port where
  | op | ackRx | frameRx | frameTx | wakeTx | crcPair | cascBuf
  deriving DecidableEq, Repr

/-- Why bytes are no instruction at a port. -/
inductive Reject where
  /-- one of the 247 reserved OPC values (R87) -/
  | reservedOpcode (opc : Byte)
  /-- the number of bytes fits no encoding of the port -/
  | badLength
  /-- the first three bytes are not `00 00 FF` (R82 (1)) -/
  | badPreamble
  /-- `LEN + LCS` is not 0 mod 256 (R82 (4), R83) -/
  | badLcs
  /-- LEN < 2 (R82 (5), R83) -/
  | shortLen
  /-- the direction byte is the other direction's or none (R75) -/
  | badTfi
  /-- the data checksum is wrong (R74) -/
  | badDcs
  /-- the postamble is not 0x00 (R71, R83) -/
  | badPostamble
  /-- six bytes that are neither ACK_FRAME nor ERR_FRAME (R81, R82) -/
  | unrecognisedAck
  /-- not WAKEUP_FRAME (R80) -/
  | notWakeup
  /-- not laid out as CASC7 or CASC10: a cascade tag is missing (R85) -/
  | noCascadeTag
  deriving DecidableEq, Repr

/-- The table of R86: `OPC[7:4]` the unit, `OPC[3:0]` the function. -/
def opTable : List (Byte × Instr) :=
  [(0x00, .crca), (0x01, .crcaApp), (0x02, .crcb), (0x03, .crcbApp), (0x04, .dcs), (0x10, .casc),
   (0x20, .fbuild), (0x21, .fcmd), (0x22, .frecv)]

/-- An operation code (R86, R87). -/
def decodeOp (opc : Byte) : Except Reject Instr :=
  match opTable.lookup opc with
  | some i => .ok i
  | none => .error (.reservedOpcode opc)

/-- A normal frame from its LEN byte on, `rest` being the bytes after LCS (R71). -/
def decodeNormal (tfi : Byte) (mk : Byte → List Byte → Instr) (len : Byte) (rest : List Byte) :
    Except Reject Instr :=
  match rest with
  | t :: cc :: body =>
    match body.drop (len.toNat - 2) with
    | [d, post] =>
      if t ≠ tfi then .error .badTfi
      else if d ≠ dcs t cc (body.take (len.toNat - 2)) then .error .badDcs
      else if post ≠ postamble then .error .badPostamble
      else .ok (mk cc (body.take (len.toNat - 2)))
    | _ => .error .badLength
  | _ => .error .badLength

/-- A whole received frame, told apart in the fixed order of R82. -/
def decodeFrameRx : List Byte → Except Reject Instr
  | h0 :: h1 :: h2 :: len :: lc :: rest =>
    if [h0, h1, h2] ≠ preamble then .error .badPreamble
    else if len = 0x01 ∧ lc = 0xFF then
      match rest with
      | [x0, x1, x2] => .ok (.apperr x0 x1 x2)
      | _ => .error .badLength
    else if len = 0xFF ∧ lc = 0xFF then .ok (.ext rest)
    else if len + lc ≠ 0 then .error .badLcs
    else if len.toNat < 2 then .error .shortLen
    else decodeNormal tfiC2H .nfC2H len rest
  | _ => .error .badLength

/-- A sent command frame (R75). -/
def decodeFrameTx : List Byte → Except Reject Instr
  | h0 :: h1 :: h2 :: len :: lc :: rest =>
    if [h0, h1, h2] ≠ preamble then .error .badPreamble
    else if len + lc ≠ 0 then .error .badLcs
    else if len.toNat < 2 then .error .shortLen
    else decodeNormal tfiH2C .nfH2C len rest
  | _ => .error .badLength

/-- The bytes met as an acknowledge: ACK_FRAME, or ERR_FRAME and its ERR_TRAIL bytes (R76, R77, R82). -/
def decodeAckRx (c : Params) (bs : List Byte) : Except Reject Instr :=
  if bs = c.ackFrame then .ok .ack
  else if bs.take 6 = c.errFrame then
    if (bs.drop 6).length = c.errTrail then .ok (.err (bs.drop 6)) else .error .badLength
  else .error .unrecognisedAck

/-- The layouts of CASCBUF (R85), by their length. -/
def decodeCascBuf : List Byte → Except Reject Instr
  | [u0, u1, u2, u3] => .ok (.casc4 u0 u1 u2 u3)
  | [t, u0, u1, u2, u3, u4, u5, u6] =>
    if t = cascadeTag then .ok (.casc7 u0 u1 u2 u3 u4 u5 u6) else .error .noCascadeTag
  | [t, u0, u1, u2, t', u3, u4, u5, u6, u7, u8, u9] =>
    if t = cascadeTag ∧ t' = cascadeTag then .ok (.casc10 u0 u1 u2 u3 u4 u5 u6 u7 u8 u9) else .error .noCascadeTag
  | _ => .error .badLength

/-- The decoder: which instruction the bytes `bs` are at the port `p`. -/
def decode (c : Params) (p : Port) (bs : List Byte) : Except Reject Instr :=
  match p with
  | .op =>
    match bs with
    | [opc] => decodeOp opc
    | _ => .error .badLength
  | .ackRx => decodeAckRx c bs
  | .frameRx => decodeFrameRx bs
  | .frameTx => decodeFrameTx bs
  | .wakeTx => if bs = c.wakeupFrame then .ok .wake else .error .notWakeup
  | .crcPair =>
    match bs with
    | [lo, hi] => .ok (.crcPair lo hi)
    | _ => .error .badLength
  | .cascBuf => decodeCascBuf bs

/-- The port at which an instruction is met. -/
def Instr.port : Instr → Port
  | .crca => .op
  | .crcaApp => .op
  | .crcb => .op
  | .crcbApp => .op
  | .dcs => .op
  | .casc => .op
  | .fbuild => .op
  | .fcmd => .op
  | .frecv => .op
  | .nfH2C _ _ => .frameTx
  | .nfC2H _ _ => .frameRx
  | .ack => .ackRx
  | .err _ => .ackRx
  | .apperr _ _ _ => .frameRx
  | .ext _ => .frameRx
  | .wake => .wakeTx
  | .crcPair _ _ => .crcPair
  | .casc4 _ _ _ _ => .cascBuf
  | .casc7 _ _ _ _ _ _ _ => .cascBuf
  | .casc10 _ _ _ _ _ _ _ _ _ _ => .cascBuf

/-- The encoder: the bytes of an instruction, in order (R71, R75 to R80, R84 to R86). -/
def encode (c : Params) : Instr → List Byte
  | .crca => [0x00]
  | .crcaApp => [0x01]
  | .crcb => [0x02]
  | .crcbApp => [0x03]
  | .dcs => [0x04]
  | .casc => [0x10]
  | .fbuild => [0x20]
  | .fcmd => [0x21]
  | .frecv => [0x22]
  | .nfH2C cc payload => normalFrame tfiH2C cc payload
  | .nfC2H cc payload => normalFrame tfiC2H cc payload
  | .ack => c.ackFrame
  | .err tail => c.errFrame ++ tail
  | .apperr x0 x1 x2 => apperrMarker ++ [x0, x1, x2]
  | .ext rest => extMarker ++ rest
  | .wake => c.wakeupFrame
  | .crcPair lo hi => [lo, hi]
  | .casc4 u0 u1 u2 u3 => [u0, u1, u2, u3]
  | .casc7 u0 u1 u2 u3 u4 u5 u6 => [cascadeTag, u0, u1, u2, u3, u4, u5, u6]
  | .casc10 u0 u1 u2 u3 u4 u5 u6 u7 u8 u9 =>
    [cascadeTag, u0, u1, u2, cascadeTag, u3, u4, u5, u6, u7, u8, u9]

/-- The first of `ports` at which `bs` is an instruction. -/
def decodeFirst (c : Params) (bs : List Byte) : List Port → Option Instr
  | [] => none
  | p :: ports =>
    match decode c p bs with
    | .ok i => some i
    | .error _ => decodeFirst c bs ports

/-- Bytes arriving from the chip: a response or an acknowledge format, whichever they are (R76 to R79; log 14). -/
def decodeArriving (c : Params) (bs : List Byte) : Option Instr := decodeFirst c bs [.frameRx, .ackRx]

/-- The `n` bytes of `w`, the first in bits 7..0 (the opcode table's numbering). -/
def wordBytes : Nat → Nat → List Byte
  | 0, _ => []
  | n + 1, w => BitVec.ofNat 8 w :: wordBytes n (w / 256)

/-- The bytes of an instruction of `nbits` bits that are the number `w`. -/
def tableBytes (nbits w : Nat) : List Byte := wordBytes ((nbits + 7) / 8) w

/-- The host's entry: one byte is an operation code; more bytes are a wire or layout format, the formats with fixed bytes
of the spec's tried before those that are parameters (log 15). -/
def decodeTableWord (nbits w : Nat) : Option Instr :=
  if nbits ≤ 8 then decodeFirst Config.params (tableBytes nbits w) [.op]
  else decodeFirst Config.params (tableBytes nbits w) [.frameRx, .frameTx, .crcPair, .cascBuf, .ackRx, .wakeTx]

end Sys2Proof
end

