-- ==== Sys2Proof/Machine/State.lean ====
section
/-! DEFINITION. The state of the block and of the agents around it, as plain data; the machine after reset; the
reasons a step can stop. -/

namespace Sys2Proof.Machine

/-- A buffer's contents: the bytes written since reset, as (index, byte) in strictly rising order of index, each at most
once. An index that is not listed holds no written byte (log 17). -/
abbrev Memory := List Host.Cell

/-- FSM, the sequencing register: its thirteen values (10_state R26). -/
inductive Fsm where
  | idle | txSend | awaitAck | errDrain
  | rxHdr | appDrain | rxTc | rxPayload | rxTrailer
  | rsWake | rsSend | rsAck | rsDrain
  deriving DecidableEq, Repr

/-- The thirteen error kinds, in the order of the source's list (60 R200, R201). -/
inductive ErrKind where
  | timeout | transportError | framingError | checksumMismatch | protocolError | applicationError
  | unsupportedFrame | bufferTooSmall | unexpectedResponse | invalidUidLength | payloadTooLarge
  | malformedDescriptor | aborted
  deriving DecidableEq, Repr

/-- A call the block made of the transport, with its argument and the timeout it handed on (20 R58, R59, R66).
There is no third: the block never calls `flush_input` (R60). -/
inductive Call where
  | send (bytes : List Byte) (tmo : Word)
  | recv (n : Nat) (tmo : Word)
  deriving DecidableEq, Repr

/-- What the HOST may write while FSM is IDLE (10_state R21, R30, R34). -/
inductive HostWrite where
  | len (v : Half)
  | cmd (v : Byte)
  | tfi (v : Byte)
  | cap (v : Half)
  | tmo (v : Word)
  | bytes (b : Buf) (at_ : Nat) (vs : List Byte)
  deriving DecidableEq, Repr

/-- A step of one agent. -/
inductive Event where
  /-- the HOST presents an operation code (R86) -/
  | start (opc : Byte)
  /-- the HOST writes an operand register or a buffer (R34) -/
  | host (w : HostWrite)
  /-- the CANCELLER raises ABORT (R173) -/
  | abort
  /-- the TRANSPORT receives bytes from the chip (R31) -/
  | arrive (bs : List Byte)
  /-- the chip sends the format `bs` and the BLOCK, if it waits for bytes, takes its step (log 13) -/
  | wire (bs : List Byte)
  /-- the BLOCK takes the step of its FSM state -/
  | block
  /-- the environment resets the block (R230, R232) -/
  | reset
  deriving DecidableEq, Repr

/-- The block (10_state R20 to R30), the transport's stream (R31) and, at the end, the model's own fields. -/
@[ext]
structure State where
  /-- the parameters of R7, fixed for the life of the model (log 4) -/
  cfg      : Params
  /-- operand registers (R21) -/
  len      : Half
  cmd      : Byte
  tfi      : Byte
  cap      : Half
  tmo      : Word
  /-- result registers (R22) -/
  crcr     : Half
  dcsr     : Byte
  rlen     : Half
  txlen    : Half
  /-- the status pair (R23, R24) -/
  status   : Byte
  errinfo  : Word
  /-- the source's `last_command` (R25) -/
  lastcmd  : Byte
  /-- the sequencing register (R26) -/
  fsm      : Fsm
  /-- the abort latch (R27) -/
  abortp   : Bool
  /-- receive latches, hidden from the HOST (R29) -/
  capl     : Half
  plen     : Byte
  rtfi     : Byte
  rcc      : Byte
  /-- the six buffers (R30) -/
  dbuf     : Memory
  pbuf     : Memory
  uidbuf   : Memory
  cascbuf  : Memory
  txbuf    : Memory
  rxbuf    : Memory
  /-- TRANSPORT: bytes sent by the chip and not yet received by the block, oldest first (R31) -/
  pending  : List Byte
  /-- the model's own: the TRANSPORT's coming answers, next first; when none is left they are free (log 7) -/
  answers  : List Answer
  /-- the model's own: the transport calls made, newest first (log 16) -/
  calls    : List Call
  /-- the model's own: which agent moves next (log 1) -/
  agenda   : List Event
  /-- the model's own: which reset the free register and byte values come from (log 5, log 17) -/
  epoch    : Nat
  /-- the model's own: how many free values have been drawn (log 7, log 9) -/
  draws    : Nat
  deriving DecidableEq, Repr

/-- The model has no fault: every error of the spec is a reported outcome after which the block goes on
(00_scope R11, 60 R200; log 18). -/
inductive Fault where
  deriving DecidableEq, Repr

/-- Why a request is not accepted; no register or buffer changes (00_scope R11). Each is safe: the model gives the
request no meaning, as the spec says. -/
inductive Refusal where
  /-- raised by an arm of `exec` that has no meaning yet; safe -/
  | notModelled (mnemonic : String)
  /-- raised by `step` for one of the 247 reserved OPC values (R87, R216(a)); safe -/
  | reservedOpcode (opc : Byte)
  /-- raised by an operation, or a layout format, that is started while FSM is not IDLE (R216(b)); safe -/
  | busy
  /-- raised where an access would leave a buffer, before anything is read or written (R52, R217); safe -/
  | outsideBuffer
  /-- raised by a HOST write while FSM is not IDLE (R240); safe -/
  | hostWriteBusy
  /-- raised by NF-H2C or WAKE when that frame is not the one the BLOCK is about to send (R11, R75, R80; log 13); safe -/
  | notTheFrameToSend
  deriving DecidableEq, Repr

/-- The block with parameters `c` after its `n`-th reset (10_state R32, 70 R231); the agents' fields are `s`'s, or empty. -/
def State.blockReset (c : Params) (n : Nat) (r : RegDraw) : State where
  cfg := c
  len := r.len
  cmd := r.cmd
  tfi := r.tfi
  cap := r.cap
  tmo := r.tmo
  crcr := r.crcr
  dcsr := r.dcsr
  rlen := r.rlen
  txlen := r.txlen
  status := 0x00
  errinfo := 0
  lastcmd := c.lastcmdReset
  fsm := .idle
  abortp := false
  capl := r.capl
  plen := r.plen
  rtfi := r.rtfi
  rcc := r.rcc
  dbuf := []
  pbuf := []
  uidbuf := []
  cascbuf := []
  txbuf := []
  rxbuf := []
  pending := []
  answers := []
  calls := []
  agenda := []
  epoch := n
  draws := 0

/-- The machine right after reset: R231's values; what R231 leaves unspecified is free (log 5, log 6, log 17). -/
def State.reset : State :=
  { State.blockReset Config.params 0 (Config.powerOnRegs 0) with pending := Config.pendingAtReset }

end Sys2Proof.Machine
end

