-- ==== Sys2Proof/Machine/Flags.lean ====
section
/-! DEFINITION. The block's one condition flag, STATUS (10_state R23), and its codes (60 R201). -/

namespace Sys2Proof.Machine

/-- The code of success (R201). -/
def statusOk : Byte := 0x00

/-- The code an error kind writes to STATUS (R201). -/
def ErrKind.code : ErrKind → Byte
  | .timeout => 0x01
  | .transportError => 0x02
  | .framingError => 0x03
  | .checksumMismatch => 0x04
  | .protocolError => 0x05
  | .applicationError => 0x06
  | .unsupportedFrame => 0x07
  | .bufferTooSmall => 0x08
  | .unexpectedResponse => 0x09
  | .invalidUidLength => 0x0A
  | .payloadTooLarge => 0x0B
  | .malformedDescriptor => 0x0C
  | .aborted => 0x0D

/-- RLEN after an append: `LEN + 2` (R104); where that does not fit 16 bits the spec states no value and it is free
(log 10). -/
def appendedLength (len : Half) : Half :=
  if len.toNat + 2 < 65536 then len + 2 else Config.longRlen len.toNat

end Sys2Proof.Machine
end

