-- ==== Sys2Proof/Machine/Ops.lean ====
section
/-! DEFINITION. The named operations over the buffers (20_memory R52), the end of an operation (00_scope R9: `done`
and `raise`), the abort (43 R172, R173), the transport primitives (20 R58, R59) and the reset event (70 R232). -/

namespace Sys2Proof.Machine

/-- The outcome of a step. -/
abbrev Out := Host.Outcome State Fault Refusal

/-! ### Buffers -/

/-- The byte written at index `a`, if any. -/
def Memory.get? : Memory → Nat → Option Byte
  | [], _ => none
  | (k, v) :: m, a => if k = a then some v else Memory.get? m a

/-- Writes one byte, keeping the canonical form. -/
def Memory.put : Memory → Nat → Byte → Memory
  | [], a, v => [(a, v)]
  | (k, w) :: m, a, v =>
    if a < k then (a, v) :: (k, w) :: m
    else if a = k then (a, v) :: m
    else (k, w) :: Memory.put m a v

/-- Writes the bytes `vs` at `a`, `a + 1`, … -/
def Memory.putRun : Memory → Nat → List Byte → Memory
  | m, _, [] => m
  | m, a, v :: vs => Memory.putRun (Memory.put m a v) (a + 1) vs

/-- The indices rise strictly from `lo` on. -/
def Memory.risesFrom : Nat → Memory → Bool
  | _, [] => true
  | lo, (k, _) :: m => decide (lo ≤ k) && Memory.risesFrom (k + 1) m

/-- The canonical form of a buffer of `cap` bytes: strictly rising indices, all below the capacity. -/
def Memory.wf (cap : Nat) (m : Memory) : Bool :=
  Memory.risesFrom 0 m && m.all (fun c => decide (c.1 < cap))

/-- A buffer's contents. -/
def State.buf (s : State) : Buf → Memory
  | .dbuf => s.dbuf
  | .pbuf => s.pbuf
  | .uidbuf => s.uidbuf
  | .cascbuf => s.cascbuf
  | .txbuf => s.txbuf
  | .rxbuf => s.rxbuf

/-- Replaces a buffer's contents. -/
def State.setBuf (s : State) (b : Buf) (m : Memory) : State :=
  match b with
  | .dbuf => { s with dbuf := m }
  | .pbuf => { s with pbuf := m }
  | .uidbuf => { s with uidbuf := m }
  | .cascbuf => { s with cascbuf := m }
  | .txbuf => { s with txbuf := m }
  | .rxbuf => { s with rxbuf := m }

/-- The capacities of R30. -/
def bufCapacity (c : Params) : Buf → Nat
  | .dbuf => c.dcap
  | .pbuf => c.pcap
  | .uidbuf => 10
  | .cascbuf => 12
  | .txbuf => 262
  | .rxbuf => c.rxcap

/-- `n` bytes from index `i` on lie inside the buffer: `i + n ≤ capacity(B)` (R52). -/
def State.fits (s : State) (b : Buf) (i n : Nat) : Bool := decide (i + n ≤ bufCapacity s.cfg b)

/-- One byte of a buffer; a byte that nothing has written since reset is a free value (R32, R33; log 17). -/
def State.readByte (s : State) (b : Buf) (a : Nat) : Byte :=
  ((s.buf b).get? a).getD (Config.powerOnByte s.epoch b a)

/-- `MemRead(B+i, n)` (R52). -/
def State.memRead (s : State) (b : Buf) : Nat → Nat → List Byte
  | _, 0 => []
  | i, n + 1 => s.readByte b i :: State.memRead s b (i + 1) n

/-- `MemWrite(B+i, n, v)` (R52). -/
def State.memWrite (s : State) (b : Buf) (i : Nat) (vs : List Byte) : State :=
  s.setBuf b ((s.buf b).putRun i vs)

/-! ### The end of an operation -/

/-- `done()` (00 R9): the status pair says success and the block is idle. -/
def State.done (s : State) : State := { s with status := statusOk, errinfo := 0, fsm := .idle }

/-- `done(n)` (00 R9): and RLEN holds the result length. -/
def State.doneLen (s : State) (n : Half) : State := { s.done with rlen := n }

/-- `raise E(info)`, the block's trap entry (00 R9, 60 R215): STATUS, ERRINFO and FSM, nothing else. There is no
handler, no saved register and no return operation (60 R221). -/
def State.raise (s : State) (e : ErrKind) (info : Word) : State :=
  { s with status := e.code, errinfo := info, fsm := .idle }

/-! ### The abort -/

/-- The states in which a receive is pending and can be aborted (10 R26, 43 R171). -/
def Fsm.abortable : Fsm → Bool
  | .rxHdr => true
  | .rxTc => true
  | .rxPayload => true
  | .rxTrailer => true
  | .idle => false
  | .txSend => false
  | .awaitAck => false
  | .errDrain => false
  | .appDrain => false
  | .rsWake => false
  | .rsSend => false
  | .rsAck => false
  | .rsDrain => false

/-- The ABORT event (43 R173): sets the latch in an abortable state; in any other it is dropped, not remembered. -/
def State.cancel (s : State) : State := if s.fsm.abortable then { s with abortp := true } else s

/-- Taking the abort (43 R172): test and clear, and the re-synchronisation sequence begins. -/
def State.takeAbort (s : State) : State := { s with abortp := false, fsm := .rsWake }

/-! ### The transport -/

/-- How a transport call fails (20 R58, R59). -/
inductive TransportFail where
  | timeout
  | error (info : Word)
  deriving DecidableEq, Repr

/-- The TRANSPORT's next answer: the head of `answers`, else a free value (U1; log 7). -/
def State.nextAnswer (s : State) : Answer :=
  match s.answers with
  | a :: _ => a
  | [] => Config.freeAnswer s.draws

/-- The state after the TRANSPORT has answered: the answer is used up and the bytes it brought are pending. -/
def State.afterAnswer (s : State) : State :=
  match s.answers with
  | a :: rest => { s with answers := rest, pending := s.pending ++ a.arrived }
  | [] => { s with draws := s.draws + 1, pending := s.pending ++ (Config.freeAnswer s.draws).arrived }

/-- The state after `TxSend(S)` (20 R58). -/
def State.afterSend (s : State) (bytes : List Byte) : State :=
  { s.afterAnswer with calls := .send bytes s.tmo :: s.calls }

/-- The answer of `TxSend(S)`: `none` for `ok`, else the failure (20 R58). -/
def State.sendFails (s : State) : Option TransportFail :=
  match s.nextAnswer.verdict with
  | .ok => none
  | .timeout => some .timeout
  | .error info => some (.error info)

/-- The answer of `RxRecv(n)` (20 R59): the oldest `n` pending bytes, or a failure. A call that is to succeed but finds
fewer than `n` bytes times out. -/
def State.recvReply (s : State) (n : Nat) : Except TransportFail (List Byte) :=
  match s.nextAnswer.verdict with
  | .ok => if n ≤ s.afterAnswer.pending.length then .ok (s.afterAnswer.pending.take n) else .error .timeout
  | .timeout => .error .timeout
  | .error info => .error (.error info)

/-- How many pending bytes `RxRecv(n)` consumes: `n` if it succeeds, else some number below `n` (20 R59, U2; log 8). -/
def State.recvConsumed (s : State) (n : Nat) : Nat :=
  match s.recvReply n with
  | .ok _ => n
  | .error _ => min s.nextAnswer.lost (n - 1)

/-- The state after `RxRecv(n)` (20 R59). -/
def State.afterRecv (s : State) (n : Nat) : State :=
  { s.afterAnswer with
    calls := .recv n s.tmo :: s.calls
    pending := s.afterAnswer.pending.drop (s.recvConsumed n) }

/-- Ends the operation with the transport's failure, verbatim (42 R137, R143, R158). -/
def State.raiseFail (s : State) : TransportFail → State
  | .timeout => s.raise .timeout 0
  | .error info => s.raise .transportError info

/-- The chip sends `bs`: they join the pending stream (10 R31). -/
def State.arrive (s : State) (bs : List Byte) : State := { s with pending := s.pending ++ bs }

/-! ### Reset -/

/-- The reset event (70 R230 to R232): R231's values at once, in any FSM state; the parameters, the transport's stream
and the other agents' fields are not touched, and the unspecified values are a new draw. -/
def State.resetEvent (s : State) : State :=
  { State.blockReset s.cfg (s.epoch + 1) (Config.powerOnRegs (s.epoch + 1)) with
    pending := s.pending
    answers := s.answers
    calls := s.calls
    agenda := s.agenda
    draws := s.draws }

/-! ### Starting an operation -/

/-- Refusal before anything else (60 R216(b), R217, R219(1)): an operation is accepted only in IDLE and only if its
accesses stay inside the buffers; accepted, it leads to `t`. -/
def State.start (s : State) (inside : Bool) (t : State) : Out :=
  if s.fsm = .idle then
    if inside then .next t else .refused .outsideBuffer
  else .refused .busy

end Sys2Proof.Machine
end

