-- ==== Sys2Proof/Machine/Operands.lean ====
section
/-! DEFINITION. The operand forms (30_encoding R88, R92): the runs of buffer bytes the operations read, and the two
classifiers of received bytes (R82, 42 R135). -/

namespace Sys2Proof.Machine

/-- `DBUF[0..LEN)`. -/
def State.dataBytes (s : State) : List Byte := s.memRead .dbuf 0 s.len.toNat

/-- `PBUF[0..LEN)`. -/
def State.payloadBytes (s : State) : List Byte := s.memRead .pbuf 0 s.len.toNat

/-- `TXBUF[0..TXLEN)`, the built frame (10 R28). -/
def State.txFrame (s : State) : List Byte := s.memRead .txbuf 0 s.txlen.toNat

/-- `RXBUF[0..PLEN)`, the payload as received. -/
def State.rxPayload (s : State) : List Byte := s.memRead .rxbuf 0 s.plen.toNat

/-- The probe frame of the re-synchronisation (43 R175). -/
def State.probeFrame (s : State) : List Byte := buildFrame s.cfg.probeCmd s.cfg.probePayload

/-- The three classes of six received bytes (42 R135). -/
inductive AckClass where
  | ack | err | other
  deriving DecidableEq, Repr

/-- `ack_classify(S)` (42 R135). -/
def ackClassify (c : Params) (bs : List Byte) : AckClass :=
  if bs = c.ackFrame then .ack
  else if bs = c.errFrame then .err
  else .other

/-- What five header bytes are (R82). -/
inductive HdrClass where
  | malformed
  | appError
  | extended
  | normal (len : Byte)
  deriving DecidableEq, Repr

/-- The header decision in its fixed order, first match wins (R82, 42 R146, R148 to R150): preamble, `01 FF`, `FF FF`,
length checksum, LEN ≥ 2. -/
def classifyHeader : List Byte → HdrClass
  | [h0, h1, h2, len, lc] =>
    if [h0, h1, h2] ≠ preamble then .malformed
    else if len = 0x01 ∧ lc = 0xFF then .appError
    else if len = 0xFF ∧ lc = 0xFF then .extended
    else if (len.toNat + lc.toNat) % 256 ≠ 0 then .malformed
    else if len.toNat < 2 then .malformed
    else .normal len
  | _ => .malformed

end Sys2Proof.Machine
end

