-- ==== Sys2Proof/Machine/Cascade.lean ====
section
/-! DEFINITION. The UID cascade encoder (41_uid_cascade.md): CASC, and the layouts CASC4, CASC7, CASC10 (R85). -/

namespace Sys2Proof.Machine

/-- Lays `bytes` down at CASCBUF[0..) and ends the operation with their number in RLEN (R121). -/
def State.layCascade (s : State) (bytes : List Byte) : State :=
  (s.memWrite .cascbuf 0 bytes).doneLen (BitVec.ofNat 16 bytes.length)

/-- `cascade_uid(uid, uid_len)` (R121), by the length of `uid`. -/
def cascadeUid : List Byte → Option (List Byte)
  | [u0, u1, u2, u3] => some [u0, u1, u2, u3]
  | [u0, u1, u2, u3, u4, u5, u6] => some [cascadeTag, u0, u1, u2, u3, u4, u5, u6]
  | [u0, u1, u2, u3, u4, u5, u6, u7, u8, u9] =>
    some [cascadeTag, u0, u1, u2, cascadeTag, u3, u4, u5, u6, u7, u8, u9]
  | _ => none

/-- The effect of CASC (R121): the test is on LEN alone, and for a LEN that is none of 4, 7, 10 UIDBUF is not read. -/
def State.cascade (s : State) : State :=
  if s.len = 4 ∨ s.len = 7 ∨ s.len = 10 then
    match cascadeUid (s.memRead .uidbuf 0 s.len.toNat) with
    | some bytes => s.layCascade bytes
    | none => s.raise .invalidUidLength 0
  else s.raise .invalidUidLength 0

/-- CASC (R121); never refused for capacity (R122, R217). -/
def execCasc (s : State) : Out := s.start true s.cascade

/-- CASC4 (R85): the write by which CASC lays it down. -/
def execCasc4 (u0 u1 u2 u3 : Byte) (s : State) : Out :=
  s.start true (s.layCascade [u0, u1, u2, u3])

/-- CASC7 (R85): the write by which CASC lays it down. -/
def execCasc7 (u0 u1 u2 u3 u4 u5 u6 : Byte) (s : State) : Out :=
  s.start true (s.layCascade [cascadeTag, u0, u1, u2, u3, u4, u5, u6])

/-- CASC10 (R85): the write by which CASC lays it down. -/
def execCasc10 (u0 u1 u2 u3 u4 u5 u6 u7 u8 u9 : Byte) (s : State) : Out :=
  s.start true (s.layCascade [cascadeTag, u0, u1, u2, cascadeTag, u3, u4, u5, u6, u7, u8, u9])

end Sys2Proof.Machine
end

