-- ==== Sys2Proof/Machine/Checksum.lean ====
section
/-! DEFINITION. The checksum unit (40_checksum_unit.md): CRCA, CRCA.APP, CRCB, CRCB.APP, DCS, and the CRC-PAIR layout
(R84). -/

namespace Sys2Proof.Machine

/-- SEED_A (R6). -/
def seedA : Half := 0x6363

/-- SEED_B (R6). -/
def seedB : Half := 0xFFFF

/-- The per-byte recurrence (R101). -/
def crcStep (crc : Half) (d : Byte) : Half :=
  let b0 : Byte := d ^^^ crc.setWidth 8
  let b : Byte := b0 ^^^ (b0 <<< 4)
  (crc >>> 8) ^^^ (b.setWidth 16 <<< 8) ^^^ (b.setWidth 16 <<< 3) ^^^ (b.setWidth 16 >>> 4)

/-- The recurrence over the data in index order, before the complement (R102). -/
def crcRun (seed : Half) (data : List Byte) : Half := data.foldl crcStep seed

/-- The core function `crc16(seed, compl, data)` (R102). -/
def crc16 (seed : Half) (compl : Bool) (data : List Byte) : Half :=
  if compl then ~~~ (crcRun seed data) else crcRun seed data

/-- One shift of the bit-serial generator (R107). -/
def crcShift (crc : Half) : Half := if crc.getLsbD 0 then (crc >>> 1) ^^^ 0x8408 else crc >>> 1

/-- The bit-serial generator of R107, one byte: into the low byte, then eight shifts. -/
def crcSerialStep (crc : Half) (d : Byte) : Half :=
  crcShift (crcShift (crcShift (crcShift (crcShift (crcShift (crcShift (crcShift (crc ^^^ d.setWidth 16))))))))

/-- The bit-serial generator of R107 over a byte sequence: a second form of the CRC, not the normative one. -/
def crcSerial (seed : Half) (data : List Byte) : Half := data.foldl crcSerialStep seed

/-- `crc_lo = CRC[7:0]` (R84, 20 R54). -/
def crcLo (crc : Half) : Byte := crc.setWidth 8

/-- `crc_hi = CRC[15:8]` (R84, 20 R54). -/
def crcHi (crc : Half) : Byte := (crc >>> 8).setWidth 8

/-- The CRC an A operation computes (R103, R104). -/
def State.crcA (s : State) : Half := crc16 seedA false s.dataBytes

/-- The CRC a B operation computes (R105, R106). -/
def State.crcB (s : State) : Half := crc16 seedB true s.dataBytes

/-- The end of a CRC operation that does not append (R103, R105). -/
def State.finishCrc (s : State) (crc : Half) : State := { s.done with crcr := crc }

/-- The end of an append operation (R104, R106): `crc_lo` at DBUF[LEN], `crc_hi` at DBUF[LEN+1], CRCR, RLEN. -/
def State.appendCrc (s : State) (crc : Half) : State :=
  { (s.memWrite .dbuf s.len.toNat [crcLo crc, crcHi crc]).doneLen (appendedLength s.len) with crcr := crc }

/-- CRCA (R103). -/
def execCrca (s : State) : Out :=
  s.start (s.fits .dbuf 0 s.len.toNat) (s.finishCrc s.crcA)

/-- CRCA.APP (R104). -/
def execCrcaApp (s : State) : Out :=
  s.start (s.fits .dbuf s.len.toNat 2) (s.appendCrc s.crcA)

/-- CRCB (R105). -/
def execCrcb (s : State) : Out :=
  s.start (s.fits .dbuf 0 s.len.toNat) (s.finishCrc s.crcB)

/-- CRCB.APP (R106). -/
def execCrcbApp (s : State) : Out :=
  s.start (s.fits .dbuf s.len.toNat 2) (s.appendCrc s.crcB)

/-- DCS (R109): LEN is not compared with MAX_PAYLOAD, and no error is raised. -/
def execDcs (s : State) : Out :=
  s.start (s.fits .pbuf 0 s.len.toNat) { s.done with dcsr := dcs s.tfi s.cmd s.payloadBytes }

/-- CRC-PAIR (R84): the write by which an append operation lays the pair down (R104, R106; log 13). -/
def execCrcPair (lo hi : Byte) (s : State) : Out :=
  s.start (s.fits .dbuf s.len.toNat 2) (s.appendCrc (hi ++ lo))

end Sys2Proof.Machine
end

