-- ==== Sys2Proof/Machine/FrameCodec.lean ====
section
/-! DEFINITION. The frame-sync and error-recognition FSM (42_frame_codec.md): FBUILD, FCMD, FRECV, and the BLOCK's
step in each of their states. -/

namespace Sys2Proof.Machine

/-! ### Building a command frame -/

/-- The build step shared by FBUILD and FCMD (R132, R133), once LEN ≤ MAX_PAYLOAD: TXBUF, TXLEN, LASTCMD. -/
def State.build (s : State) : State :=
  { s.memWrite .txbuf 0 (buildFrame s.cmd s.payloadBytes) with txlen := s.len + 9, lastcmd := s.cmd }

/-- The build step's test (R132): PayloadTooLarge before anything is read or written. -/
def State.payloadTooLarge (s : State) : Bool := decide (s.cfg.maxPayload < s.len.toNat)

/-- FBUILD (R134); never refused for capacity (R132, R217). -/
def execFbuild (s : State) : Out :=
  s.start true (if s.payloadTooLarge then s.raise .payloadTooLarge 0 else s.build.doneLen (s.len + 9))

/-- FCMD, its first step (R136). -/
def execFcmd (s : State) : Out :=
  s.start true (if s.payloadTooLarge then s.raise .payloadTooLarge 0 else { s.build with fsm := .txSend })

/-- FRECV, its first step (R144): no transport call; CAP > RXCAP is refused. -/
def execFrecv (s : State) : Out :=
  s.start (s.fits .rxbuf 0 s.cap.toNat) { s with capl := s.cap, fsm := .rxHdr }

/-! ### FCMD: send, await the acknowledge -/

/-- The step in TX_SEND (R137). -/
def State.stepTxSend (s : State) : State :=
  match s.sendFails with
  | some e => (s.afterSend s.txFrame).raiseFail e
  | none => { s.afterSend s.txFrame with fsm := .awaitAck }

/-- Six bytes received in AWAIT_ACK (R138 to R141). -/
def State.onAck (s : State) (bs : List Byte) : State :=
  match ackClassify s.cfg bs with
  | .ack => s.doneLen 0
  | .err => if s.cfg.errTrail = 0 then s.raise .protocolError 0 else { s with fsm := .errDrain }
  | .other => s.raise .transportError 0

/-- The step in AWAIT_ACK (R138, R143); not abortable (43 R171). -/
def State.stepAwaitAck (s : State) : State :=
  match s.recvReply 6 with
  | .ok bs => (s.afterRecv 6).onAck bs
  | .error e => (s.afterRecv 6).raiseFail e

/-- The step in ERR_DRAIN (R142): ProtocolError whatever the drain's answer. -/
def State.stepErrDrain (s : State) : State := (s.afterRecv s.cfg.errTrail).raise .protocolError 0

/-! ### FRECV: receive and validate a response -/

/-- Five header bytes received in RX_HDR (R145, R146, R148 to R151). -/
def State.onHeader (s : State) (h : List Byte) : State :=
  match classifyHeader h with
  | .malformed => s.raise .framingError 0
  | .appError => { s with fsm := .appDrain }
  | .extended => s.raise .unsupportedFrame 0
  | .normal len =>
    if s.capl.toNat < len.toNat - 2 then s.raise .bufferTooSmall 0
    else { s with plen := len - 2, fsm := .rxTc }

/-- The step in RX_HDR without an abort (R145, R158). -/
def State.stepRxHdr (s : State) : State :=
  match s.recvReply 5 with
  | .ok h => (s.afterRecv 5).onHeader h
  | .error e => (s.afterRecv 5).raiseFail e

/-- The step in APP_DRAIN (R147): ApplicationError whatever the drain's answer; not abortable. -/
def State.stepAppDrain (s : State) : State := (s.afterRecv 3).raise .applicationError 0

/-- Byte k of a sequence that a successful receive returned; such a sequence has exactly the length asked for (20 R59),
so the default is never met. -/
def byteAt (bs : List Byte) (k : Nat) : Byte := bs.getD k 0

/-- TFI and command code received in RX_TC (R152, R153); the `+ 1` wraps. -/
def State.onTc (s : State) (bs : List Byte) : State :=
  let s1 := { s with rtfi := byteAt bs 0, rcc := byteAt bs 1 }
  if byteAt bs 0 ≠ tfiC2H ∨ byteAt bs 1 ≠ s.lastcmd + 1 then s1.raise .unexpectedResponse 0
  else if s.plen = 0 then { s1 with fsm := .rxTrailer }
  else { s1 with fsm := .rxPayload }

/-- The step in RX_TC without an abort (R152, R158). -/
def State.stepRxTc (s : State) : State :=
  match s.recvReply 2 with
  | .ok bs => (s.afterRecv 2).onTc bs
  | .error e => (s.afterRecv 2).raiseFail e

/-- The payload received in RX_PAYLOAD (R154). -/
def State.onPayload (s : State) (bs : List Byte) : State :=
  { s.memWrite .rxbuf 0 bs with fsm := .rxTrailer }

/-- `n` free bytes of draw `d`, from index `k` on (R163, U17; log 9). -/
def freeRun (d : Nat) : Nat → Nat → List Byte
  | _, 0 => []
  | k, n + 1 => Config.freeByte d k :: freeRun d (k + 1) n

/-- A payload receive that failed leaves `RXBUF[0..PLEN)` unspecified (R154, R163): free bytes. -/
def State.loseRxPayload (s : State) : State :=
  { s.memWrite .rxbuf 0 (freeRun s.draws 0 s.plen.toNat) with draws := s.draws + 1 }

/-- The step in RX_PAYLOAD without an abort (R154, R158). -/
def State.stepRxPayload (s : State) : State :=
  match s.recvReply s.plen.toNat with
  | .ok bs => (s.afterRecv s.plen.toNat).onPayload bs
  | .error e => (s.afterRecv s.plen.toNat).loseRxPayload.raiseFail e

/-- DCS and postamble received in RX_TRAILER (R155 to R157): the DCS is tested first. -/
def State.onTrailer (s : State) (bs : List Byte) : State :=
  if byteAt bs 0 ≠ dcs s.rtfi s.rcc s.rxPayload then s.raise .checksumMismatch 0
  else if byteAt bs 1 ≠ postamble then s.raise .framingError 0
  else { s.doneLen (s.plen.setWidth 16) with lastcmd := s.lastcmd + 1 }

/-- The step in RX_TRAILER without an abort (R155, R158). -/
def State.stepRxTrailer (s : State) : State :=
  match s.recvReply 2 with
  | .ok bs => (s.afterRecv 2).onTrailer bs
  | .error e => (s.afterRecv 2).raiseFail e

end Sys2Proof.Machine
end

