-- ==== Sys2Proof/Machine/Resync.lean ====
section
/-! DEFINITION. The re-synchronisation sequence after an abort (43_abort_resync.md R174 to R177). -/

namespace Sys2Proof.Machine

/-- The step in RS_WAKE (R174): WAKEUP_FRAME is sent, and the sequence goes on whatever the answer. -/
def State.stepRsWake (s : State) : State := { s.afterSend s.cfg.wakeupFrame with fsm := .rsSend }

/-- The probe frame is laid into TXBUF (R175); LASTCMD, CMD, LEN and PBUF are not touched. -/
def State.layProbe (s : State) : State :=
  { s.memWrite .txbuf 0 s.probeFrame with txlen := BitVec.ofNat 16 s.probeFrame.length }

/-- The step in RS_SEND (R175). -/
def State.stepRsSend (s : State) : State :=
  match s.sendFails with
  | some _ => (s.layProbe.afterSend s.probeFrame).raise .aborted 0
  | none => { s.layProbe.afterSend s.probeFrame with fsm := .rsAck }

/-- The step in RS_ACK (R176): the probe's outcome is not reported. -/
def State.stepRsAck (s : State) : State :=
  match s.recvReply 6 with
  | .ok bs =>
    if ackClassify s.cfg bs = .err ∧ 0 < s.cfg.errTrail then { s.afterRecv 6 with fsm := .rsDrain }
    else (s.afterRecv 6).raise .aborted 0
  | .error _ => (s.afterRecv 6).raise .aborted 0

/-- The step in RS_DRAIN (R177): Aborted whatever the drain's answer. -/
def State.stepRsDrain (s : State) : State := (s.afterRecv s.cfg.errTrail).raise .aborted 0

end Sys2Proof.Machine
end

