-- ==== Sys2Proof/Machine/Block.lean ====
section
/-! DEFINITION. The BLOCK's step in each FSM state (42 R160, 43 R178). -/

namespace Sys2Proof.Machine

/-- In an abortable state with ABORTP = 1 the only step the BLOCK may take is to take the abort (43 R172, 60 R219):
no transport call is made. -/
def State.unlessAborted (s : State) (k : Out) : Out := if s.abortp then .next s.takeAbort else k

/-- A step whose buffer access lies inside the buffer (20 R52); outside, which no run reaches, it is refused (log 12). -/
def State.inside (ok : Bool) (t : State) : Out := if ok then .next t else .refused .outsideBuffer

/-- The BLOCK's step: at most one transport call (00 R12). In IDLE it has none and the state stays (log 2). -/
def State.blockStep (s : State) : Out :=
  match s.fsm with
  | .idle => .next s
  | .txSend => State.inside (s.fits .txbuf 0 s.txlen.toNat) s.stepTxSend
  | .awaitAck => .next s.stepAwaitAck
  | .errDrain => .next s.stepErrDrain
  | .rxHdr => s.unlessAborted (.next s.stepRxHdr)
  | .appDrain => .next s.stepAppDrain
  | .rxTc => s.unlessAborted (.next s.stepRxTc)
  | .rxPayload => s.unlessAborted (State.inside (s.fits .rxbuf 0 s.plen.toNat) s.stepRxPayload)
  | .rxTrailer => s.unlessAborted (State.inside (s.fits .rxbuf 0 s.plen.toNat) s.stepRxTrailer)
  | .rsWake => .next s.stepRsWake
  | .rsSend => .next s.stepRsSend
  | .rsAck => .next s.stepRsAck
  | .rsDrain => .next s.stepRsDrain

end Sys2Proof.Machine
end

