-- ==== Sys2Proof/Machine/Wire.lean ====
section
/-! DEFINITION. The wire formats (30_encoding R75 to R80): the received ones arrive from the chip and the BLOCK takes
its receive step if it waits for one; the sent ones are the BLOCK's send step (log 13). -/

namespace Sys2Proof.Machine

/-- The states whose step is a receive (10 R26). -/
def Fsm.receives : Fsm → Bool
  | .awaitAck => true
  | .errDrain => true
  | .rxHdr => true
  | .appDrain => true
  | .rxTc => true
  | .rxPayload => true
  | .rxTrailer => true
  | .rsAck => true
  | .rsDrain => true
  | .idle => false
  | .txSend => false
  | .rsWake => false
  | .rsSend => false

/-- The chip sends `bs` (R31: bytes the block does not read stay pending); if the BLOCK waits for bytes it takes its step,
which reads the oldest pending bytes first (R59) and recognises them as its state does (R82). -/
def State.receive (s : State) (bs : List Byte) : Out :=
  if s.fsm.receives then (s.arrive bs).blockStep else .next (s.arrive bs)

/-- The command frame the BLOCK is about to send: the built frame in TX_SEND (42 R137), the probe in RS_SEND (43 R175). -/
def State.frameToSend (s : State) : Option (List Byte) :=
  match s.fsm with
  | .txSend => some s.txFrame
  | .rsSend => some s.probeFrame
  | _ => none

/-- NF-H2C (R75): the BLOCK's step that sends this frame. -/
def execNfH2C (cc : Byte) (payload : List Byte) (s : State) : Out :=
  if s.frameToSend = some (buildFrame cc payload) then s.blockStep else .refused .notTheFrameToSend

/-- WAKE (R80): the BLOCK's step that sends it (43 R174). -/
def execWake (s : State) : Out :=
  if s.fsm = .rsWake then s.blockStep else .refused .notTheFrameToSend

/-- NF-C2H (R75): a response frame arrives. -/
def execNfC2H (cc : Byte) (payload : List Byte) (s : State) : Out :=
  s.receive (encode s.cfg (.nfC2H cc payload))

/-- ACK (R76): the AckFrame arrives. -/
def execAck (s : State) : Out := s.receive (encode s.cfg .ack)

/-- ERR (R77): the ErrorFrame and its trailing bytes arrive. -/
def execErr (tail : List Byte) (s : State) : Out := s.receive (encode s.cfg (.err tail))

/-- APPERR (R78): the application-level error pattern arrives. -/
def execApperr (x0 x1 x2 : Byte) (s : State) : Out := s.receive (encode s.cfg (.apperr x0 x1 x2))

/-- EXT (R79): the extended-frame marker and what follows it arrive. -/
def execExt (rest : List Byte) (s : State) : Out := s.receive (encode s.cfg (.ext rest))

end Sys2Proof.Machine
end

