-- ==== Sys2Proof/Machine/Dispatch.lean ====
section
/-! DEFINITION. The meaning of every instruction: one arm per constructor of Instr. -/

namespace Sys2Proof.Machine

def exec (i : Instr) (s : State) : Host.Outcome State Fault Refusal :=
  match i with
  | .crca => Sys2Proof.Machine.execCrca s
  | .crcaApp => Sys2Proof.Machine.execCrcaApp s
  | .crcb => Sys2Proof.Machine.execCrcb s
  | .crcbApp => Sys2Proof.Machine.execCrcbApp s
  | .dcs => Sys2Proof.Machine.execDcs s
  | .casc => Sys2Proof.Machine.execCasc s
  | .fbuild => Sys2Proof.Machine.execFbuild s
  | .fcmd => Sys2Proof.Machine.execFcmd s
  | .frecv => Sys2Proof.Machine.execFrecv s
  | .nfH2C cc payload => Sys2Proof.Machine.execNfH2C cc payload s
  | .nfC2H cc payload => Sys2Proof.Machine.execNfC2H cc payload s
  | .ack => Sys2Proof.Machine.execAck s
  | .err tail => Sys2Proof.Machine.execErr tail s
  | .apperr x0 x1 x2 => Sys2Proof.Machine.execApperr x0 x1 x2 s
  | .ext rest => Sys2Proof.Machine.execExt rest s
  | .wake => Sys2Proof.Machine.execWake s
  | .crcPair lo hi => Sys2Proof.Machine.execCrcPair lo hi s
  | .casc4 u0 u1 u2 u3 => Sys2Proof.Machine.execCasc4 u0 u1 u2 u3 s
  | .casc7 u0 u1 u2 u3 u4 u5 u6 => Sys2Proof.Machine.execCasc7 u0 u1 u2 u3 u4 u5 u6 s
  | .casc10 u0 u1 u2 u3 u4 u5 u6 u7 u8 u9 => Sys2Proof.Machine.execCasc10 u0 u1 u2 u3 u4 u5 u6 u7 u8 u9 s

end Sys2Proof.Machine
end

