-- ==== Sys2Proof/Machine/Host.lean ====
section
/-! DEFINITION. The HOST's access to registers and buffers (10_state R34). -/

namespace Sys2Proof.Machine

/-- The registers and buffers the HOST may read (R34): not the latches
CAPL, PLEN, RTFI, RCC (R29), not the transport's stream. A buffer is its bytes from index 0 to its capacity. -/
structure HostView where
  len     : Half
  cmd     : Byte
  tfi     : Byte
  cap     : Half
  tmo     : Word
  crcr    : Half
  dcsr    : Byte
  rlen    : Half
  txlen   : Half
  status  : Byte
  errinfo : Word
  lastcmd : Byte
  fsm     : Fsm
  abortp  : Bool
  dbuf    : List Byte
  pbuf    : List Byte
  uidbuf  : List Byte
  cascbuf : List Byte
  txbuf   : List Byte
  rxbuf   : List Byte
  deriving DecidableEq, Repr

/-- A buffer as the HOST reads it: the byte at each index below its capacity (R30, R52), one that nothing has written
since reset not excepted. -/
def State.hostBytes (s : State) (b : Buf) : List Byte := s.memRead b 0 (bufCapacity s.cfg b)

/-- What the HOST sees; reading changes nothing (20 R57). -/
def State.hostView (s : State) : HostView where
  len := s.len
  cmd := s.cmd
  tfi := s.tfi
  cap := s.cap
  tmo := s.tmo
  crcr := s.crcr
  dcsr := s.dcsr
  rlen := s.rlen
  txlen := s.txlen
  status := s.status
  errinfo := s.errinfo
  lastcmd := s.lastcmd
  fsm := s.fsm
  abortp := s.abortp
  dbuf := s.hostBytes .dbuf
  pbuf := s.hostBytes .pbuf
  uidbuf := s.hostBytes .uidbuf
  cascbuf := s.hostBytes .cascbuf
  txbuf := s.hostBytes .txbuf
  rxbuf := s.hostBytes .rxbuf

/-- The bytes of a buffer in the HOST's view. -/
def HostView.bytes (v : HostView) : Buf → List Byte
  | .dbuf => v.dbuf
  | .pbuf => v.pbuf
  | .uidbuf => v.uidbuf
  | .cascbuf => v.cascbuf
  | .txbuf => v.txbuf
  | .rxbuf => v.rxbuf

/-- A HOST write in IDLE: an operand register (R21), or bytes inside a buffer (R30, R52, R67). -/
def State.hostStore (s : State) : HostWrite → Out
  | .len v => .next { s with len := v }
  | .cmd v => .next { s with cmd := v }
  | .tfi v => .next { s with tfi := v }
  | .cap v => .next { s with cap := v }
  | .tmo v => .next { s with tmo := v }
  | .bytes b i vs => if s.fits b i vs.length then .next (s.memWrite b i vs) else .refused .outsideBuffer

/-- A HOST write has `FSM = IDLE` as its precondition (70 R240). -/
def State.hostWrite (s : State) (w : HostWrite) : Out :=
  if s.fsm = .idle then s.hostStore w else .refused .hostWriteBusy

end Sys2Proof.Machine
end

