-- ==== Sys2Proof/Machine/Fetch.lean ====
section
/-! DEFINITION. What each event does (00_scope R5), and how an instruction is put where the next step takes it. -/

namespace Sys2Proof.Machine

/-- One agent's step, from the state in which the event has left the agenda. -/
def State.runEvent (s : State) (e : Event) : Out :=
  match e with
  | .start opc =>
    match decode s.cfg .op [opc] with
    | .ok i => exec i s
    | .error _ => .refused (.reservedOpcode opc)
  | .host w => s.hostWrite w
  | .abort => .next s.cancel
  | .arrive bs => .next (s.arrive bs)
  | .wire bs =>
    match decodeArriving s.cfg bs with
    | some i => exec i s
    | none => s.receive bs
  | .block => s.blockStep
  | .reset => .next s.resetEvent

/-- The event is the next one. -/
def State.schedule (s : State) (e : Event) : State := { s with agenda := e :: s.agenda }

/-- Two data bytes whose A-variant CRC is `hi * 256 + lo`: the recurrence of R101 run backwards from the CRC to SEED_A. -/
def crcPreimage (lo hi : Byte) : List Byte :=
  let b2 : Byte := hi ^^^ (hi >>> 5)
  let p : Byte := lo ^^^ (b2 <<< 3) ^^^ (b2 >>> 4)
  let b1 : Byte := p ^^^ (p >>> 5)
  let q : Byte := 0x63 ^^^ (b1 <<< 3) ^^^ (b1 >>> 4)
  [b1 ^^^ (b1 <<< 4) ^^^ 0x63, b2 ^^^ (b2 <<< 4) ^^^ q]

/-- Puts an instruction, whose bytes are `bs`, where the next step takes it (log 3): an operation code at the operation
port; a received format on the wire; for a sent format, the BLOCK about to send it; for a layout, the operation that lays
it down. -/
def State.present (s : State) (i : Instr) (bs : List Byte) : State :=
  match i with
  | .nfH2C cc payload =>
    ({ s.memWrite .txbuf 0 (buildFrame cc payload) with
        txlen := BitVec.ofNat 16 (payload.length + 9), fsm := .txSend }).schedule .block
  | .wake => ({ s with fsm := .rsWake }).schedule .block
  | .crcPair lo hi => ({ s.memWrite .dbuf 0 (crcPreimage lo hi) with len := 2 }).schedule (.start 0x01)
  | .casc4 u0 u1 u2 u3 => ({ s.memWrite .uidbuf 0 [u0, u1, u2, u3] with len := 4 }).schedule (.start 0x10)
  | .casc7 u0 u1 u2 u3 u4 u5 u6 =>
    ({ s.memWrite .uidbuf 0 [u0, u1, u2, u3, u4, u5, u6] with len := 7 }).schedule (.start 0x10)
  | .casc10 u0 u1 u2 u3 u4 u5 u6 u7 u8 u9 =>
    ({ s.memWrite .uidbuf 0 [u0, u1, u2, u3, u4, u5, u6, u7, u8, u9] with len := 10 }).schedule (.start 0x10)
  | .nfC2H _ _ => s.schedule (.wire bs)
  | .ack => s.schedule (.wire bs)
  | .err _ => s.schedule (.wire bs)
  | .apperr _ _ _ => s.schedule (.wire bs)
  | .ext _ => s.schedule (.wire bs)
  | .crca => s.schedule (.start (byteAt bs 0))
  | .crcaApp => s.schedule (.start (byteAt bs 0))
  | .crcb => s.schedule (.start (byteAt bs 0))
  | .crcbApp => s.schedule (.start (byteAt bs 0))
  | .dcs => s.schedule (.start (byteAt bs 0))
  | .casc => s.schedule (.start (byteAt bs 0))
  | .fbuild => s.schedule (.start (byteAt bs 0))
  | .fcmd => s.schedule (.start (byteAt bs 0))
  | .frecv => s.schedule (.start (byteAt bs 0))

/-- Puts the bytes of a table word where the next step takes them. -/
def State.presentWord (s : State) (nbits w : Nat) : State :=
  match decodeTableWord nbits w with
  | some i => s.present i (tableBytes nbits w)
  | none =>
    match tableBytes nbits w with
    | [opc] => s.schedule (.start opc)
    | bs => s.schedule (.wire bs)

end Sys2Proof.Machine
end

