-- ==== Sys2Proof/Machine/Step.lean ====
section
/-! DEFINITION. One step of the machine: the next event of the agenda, else the BLOCK's own step (log 1, log 2). -/

namespace Sys2Proof.Machine

/-- One step: the agent at the head of the agenda moves; with an empty agenda the BLOCK does. -/
def step (s : State) : Host.Outcome State Fault Refusal :=
  match s.agenda with
  | [] => s.blockStep
  | e :: rest => ({ s with agenda := rest } : State).runEvent e

/-- `s` with the instruction of `nbits` bits that are `w` put where `step` takes its next one (log 3). -/
def State.withFetchWord (s : State) (nbits w : Nat) : State := s.presentWord nbits w

end Sys2Proof.Machine
end

