-- ==== Sys2Proof/Machine/Descriptor.lean ====
section
/-! DEFINITION. The target descriptor decoder (49_descriptor_decoder.md): pure functions beside the block, which has no
operation, register or FSM state for them (R4, R185; log 19). The masks the source omits are arguments (U27; log 20). -/

namespace Sys2Proof.Machine.Descriptor

/-- UID size class (R187); 3 is reserved, treated as unknown, not an error. -/
inductive UidClass where
  | single | double | triple | unknown
  deriving DecidableEq, Repr

/-- `atqa[1][7:6]` (R187). -/
def uidClass (atqa1 : Byte) : UidClass :=
  match (atqa1 >>> 6).toNat with
  | 0 => .single
  | 1 => .double
  | 2 => .triple
  | _ => .unknown

/-- `atqa[1][4:0]` (R188). -/
def anticollisionBits (atqa1 : Byte) : Byte := atqa1 &&& 0x1F

/-- Bit-frame anticollision is supported iff the masked value is a non-zero power of two ≤ 0x10 (R188). -/
def anticollisionSupported (atqa1 : Byte) : Bool :=
  [0x01, 0x02, 0x04, 0x08, 0x10].contains (anticollisionBits atqa1)

/-- Where a field of the `0xC1` sub-format stands; the source gives no position (R192). -/
structure FieldPlace where
  index : Nat
  mask  : Byte
  shift : Nat
  deriving DecidableEq, Repr

/-- One value for each bit rate above the basic one (R193). -/
structure PerRate (α : Type) where
  kbps212 : α
  kbps424 : α
  kbps847 : α
  deriving DecidableEq, Repr

/-- What `protocol_info[0]` says: the rates of each direction and that both directions must use the same (R193; the rule
names no directions, the names here are log 20's). -/
structure RateFlags (α : Type) where
  toCard             : PerRate α
  fromCard           : PerRate α
  symmetricMandatory : α
  deriving DecidableEq, Repr

/-- What TA1 says: bit-rate asymmetry, and support flags that the source does not name one by one (R191). -/
structure Ta1Flags (α : Type) where
  asymmetry : α
  support   : List α
  deriving DecidableEq, Repr

/-- The masks the source names without printing (R189, R191 to R193; log 20). -/
structure Masks where
  sakCascade    : Byte
  sakIso14443_4 : Byte
  sakIso18092   : Byte
  ta1           : Ta1Flags Byte
  tc1Nad        : Byte
  tc1Cid        : Byte
  bRates        : RateFlags Byte
  bNad          : Byte
  bCid          : Byte
  chipType      : FieldPlace
  memorySize    : FieldPlace
  cardStatus    : FieldPlace
  generation    : FieldPlace
  virtualCard   : FieldPlace
  deriving DecidableEq, Repr

/-- A flag extracted by a mask. -/
def flag (b mask : Byte) : Bool := (b &&& mask) != 0

/-- The flags of one direction, each by its own mask. -/
def PerRate.flags (m : PerRate Byte) (b : Byte) : PerRate Bool where
  kbps212 := flag b m.kbps212
  kbps424 := flag b m.kbps424
  kbps847 := flag b m.kbps847

/-- The flags of `protocol_info[0]`, each by its own mask (R193). -/
def RateFlags.flags (m : RateFlags Byte) (b : Byte) : RateFlags Bool where
  toCard := m.toCard.flags b
  fromCard := m.fromCard.flags b
  symmetricMandatory := flag b m.symmetricMandatory

/-- The flags of TA1 (R191). -/
def Ta1Flags.flags (m : Ta1Flags Byte) (b : Byte) : Ta1Flags Bool where
  asymmetry := flag b m.asymmetry
  support := m.support.map (flag b)

/-- The nine-entry max-frame-size table with the fallback 16 (R190). -/
def maxFrame (index : Nat) : Nat := [16, 24, 32, 40, 48, 64, 96, 128, 256].getD index 16

/-- The carrier, 13.56 MHz (R191). -/
def carrierHz : Nat := 13560000

/-- `4096 * 2^FWI`: the Frame Waiting Time in periods of the carrier, so `FWT = fwtPeriods / carrierHz` seconds (R191). -/
def fwtPeriods (fwi : Nat) : Nat := 4096 * 2 ^ fwi

/-- High nibble (R8). -/
def highNibble (b : Byte) : Nat := b.toNat / 16

/-- Low nibble (R8). -/
def lowNibble (b : Byte) : Nat := b.toNat % 16

/-- The category indicator of the historical bytes (R192). -/
inductive Category where
  | compactTlv (tag : Byte)
  | proprietaryC1 (chipType memorySize cardStatus generation virtualCard : Option Byte)
  | uninterpreted (first : Byte)
  deriving DecidableEq, Repr

/-- A field of the `0xC1` sub-format, if its byte is there. -/
def field (bs : List Byte) (p : FieldPlace) : Option Byte := bs[p.index]?.map fun b => (b &&& p.mask) >>> p.shift

/-- The category of the historical bytes; none if there are none (R192). -/
def category (m : Masks) : List Byte → Option Category
  | [] => none
  | b :: rest =>
    if b = 0x00 ∨ b = 0x80 ∨ b = 0x10 then some (.compactTlv b)
    else if b = 0xC1 then
      some (.proprietaryC1 (field rest m.chipType) (field rest m.memorySize) (field rest m.cardStatus)
        (field rest m.generation) (field rest m.virtualCard))
    else some (.uninterpreted b)

/-- What an ATS says (R190 to R192). -/
structure Ats where
  fsci       : Nat
  maxFrame   : Nat
  ta1        : Option Byte
  tb1        : Option Byte
  tc1        : Option Byte
  historical : List Byte
  deriving DecidableEq, Repr

/-- An optional interface byte at the head of `bs`; announced but missing is MalformedDescriptor (R194). -/
def takeIf (present : Bool) (bs : List Byte) : Except ErrKind (Option Byte × List Byte) :=
  if present then
    match bs with
    | b :: rest => .ok (some b, rest)
    | [] => .error .malformedDescriptor
  else .ok (none, bs)

/-- The ATS layout: T0, then TA1, TB1, TC1 as T0 bits 4, 5, 6 announce, then historical bytes (R190), of any number
(DESIGN CHOICE, log 28). -/
def decodeAts (t0 : Byte) (rest : List Byte) : Except ErrKind Ats :=
  match takeIf (t0.getLsbD 4) rest with
  | .error e => .error e
  | .ok (ta1, r1) =>
    match takeIf (t0.getLsbD 5) r1 with
    | .error e => .error e
    | .ok (tb1, r2) =>
      match takeIf (t0.getLsbD 6) r2 with
      | .error e => .error e
      | .ok (tc1, r3) =>
        .ok { fsci := lowNibble t0, maxFrame := Descriptor.maxFrame (lowNibble t0), ta1 := ta1, tb1 := tb1, tc1 := tc1,
              historical := r3 }

/-- The decoded ISO14443A quantities (R187 to R192). -/
structure DecodedA where
  uidClass          : UidClass
  anticollision     : Byte
  anticollisionOk   : Bool
  cascadeIncomplete : Bool
  iso14443_4        : Bool
  iso18092          : Bool
  ats               : Option Ats
  /-- TA1's bit-rate asymmetry and support flags -/
  ta1Flags          : Option (Ta1Flags Bool)
  /-- FWT in carrier periods, from TB1's high nibble -/
  fwt               : Option Nat
  /-- SFGI, TB1's low nibble; 0 means no guard time is required -/
  sfgi              : Option Nat
  nad               : Option Bool
  cid               : Option Bool
  category          : Option Category
  deriving DecidableEq, Repr

/-- The quantities of R187 to R192 once the ATS, if any, is decoded. -/
def decodedA (m : Masks) (atqa1 sak : Byte) (ats : Option Ats) : DecodedA where
  uidClass := Descriptor.uidClass atqa1
  anticollision := anticollisionBits atqa1
  anticollisionOk := anticollisionSupported atqa1
  cascadeIncomplete := flag sak m.sakCascade
  iso14443_4 := flag sak m.sakIso14443_4
  iso18092 := flag sak m.sakIso18092
  ats := ats
  ta1Flags := (ats.bind (·.ta1)).map m.ta1.flags
  fwt := (ats.bind (·.tb1)).map fun b => fwtPeriods (highNibble b)
  sfgi := (ats.bind (·.tb1)).map lowNibble
  nad := (ats.bind (·.tc1)).map fun b => flag b m.tc1Nad
  cid := (ats.bind (·.tc1)).map fun b => flag b m.tc1Cid
  category := ats.bind fun a => Descriptor.category m a.historical

/-- The decoded ISO14443B quantities (R193). -/
structure DecodedB where
  rates      : RateFlags Bool
  maxFrame   : Nat
  iso14443_4 : Bool
  fwt        : Nat
  nad        : Bool
  cid        : Bool
  deriving DecidableEq, Repr

/-- The quantities of R193. -/
def decodedB (m : Masks) (info0 info1 info2 : Byte) : DecodedB where
  rates := m.bRates.flags info0
  maxFrame := Descriptor.maxFrame (highNibble info1)
  iso14443_4 := info1.getLsbD 0
  fwt := fwtPeriods (highNibble info2)
  nad := flag info2 m.bNad
  cid := flag info2 m.bCid

/-- TargetDescriptor, the tagged union of R186: each arm holds what the card gave and the decoded quantities. -/
inductive Target where
  | iso14443a (uid : List Byte) (atqa0 atqa1 sak : Byte) (ats : List Byte) (decoded : DecodedA)
  | iso14443b (pupi applicationData : List Byte) (info0 info1 info2 : Byte) (decoded : DecodedB)
  deriving DecidableEq, Repr

/-- The lengths of R186; UID length 0 is "no UID", ATS length 0 "no ATS present". The decoders do not test it (log 28). -/
def Target.wf : Target → Bool
  | .iso14443a uid _ _ _ ats _ => [0, 4, 7, 10].contains uid.length && decide (ats.length ≤ 254)
  | .iso14443b pupi app _ _ _ _ => pupi.length == 4 && app.length == 4

/-- `decode_iso14443a(atqa, sak, ats)` (R186 to R192, R194), for the card whose UID is `uid`: the UID is held, not decoded
(log 19); `atqa[0]` is held and has no meaning (R188). DESIGN CHOICE (log 28): no length is tested; a UID or an ATS of a length
that R186 excludes is held and decoded like any other, and the result is then not `Target.wf`. -/
def decodeA (m : Masks) (uid : List Byte) (atqa0 atqa1 sak : Byte) (ats : List Byte) : Except ErrKind Target :=
  match ats with
  | [] => .ok (.iso14443a uid atqa0 atqa1 sak [] (decodedA m atqa1 sak none))
  | t0 :: rest =>
    match decodeAts t0 rest with
    | .ok a => .ok (.iso14443a uid atqa0 atqa1 sak (t0 :: rest) (decodedA m atqa1 sak (some a)))
    | .error e => .error e

/-- `decode_iso14443b(application_data, protocol_info)` (R186, R193), for the card whose PUPI is `pupi`: PUPI and
application data are held, not decoded (log 19); it never fails. DESIGN CHOICE (log 28): no length is tested; PUPI or
application data of another length than R186's 4 bytes are held as they are, and the result is then not `Target.wf`. -/
def decodeB (m : Masks) (pupi applicationData : List Byte) (info0 info1 info2 : Byte) : Target :=
  .iso14443b pupi applicationData info0 info1 info2 (decodedB m info0 info1 info2)

end Sys2Proof.Machine.Descriptor
end

