-- ==== Sys2Proof/Safety.lean ====
section
/-! DEFINITION. What counts as a good state of the block and as progress of the BLOCK, in the terms the statements use. -/

namespace Sys2Proof.Machine

/-- The states a run can reach: the facts the spec states of the block between two steps. -/
structure State.Inv (s : State) : Prop where
  /-- ABORTP is 0 outside a pending abortable receive (10 R27) -/
  abort_pending : s.abortp = true → s.fsm.abortable = true
  /-- STATUS is one of the fourteen codes and never MalformedDescriptor's (60 R201, R213) -/
  status_code : s.status.toNat ≤ 0x0D ∧ s.status ≠ 0x0C
  /-- ERRINFO is 0 except with TransportError (10 R24) -/
  errinfo_zero : s.status ≠ ErrKind.transportError.code → s.errinfo = 0
  /-- every buffer is in canonical form and inside its capacity (10 R30, 20 R52) -/
  buffers : ∀ b, Memory.wf (bufCapacity s.cfg b) (s.buf b) = true
  /-- in TX_SEND the built frame of the operands is in TXBUF (42 R136, 10 R28) -/
  tx_frame : s.fsm = .txSend →
    s.len.toNat ≤ s.cfg.maxPayload ∧ s.txlen.toNat = s.len.toNat + 9 ∧ s.txFrame = buildFrame s.cmd s.payloadBytes
      ∧ s.lastcmd = s.cmd
  /-- while a response is received the caller's room is inside RXBUF (42 R144) -/
  rx_room : s.fsm.abortable = true → s.capl.toNat ≤ s.cfg.rxcap
  /-- once the header is accepted the payload fits that room (42 R151) -/
  rx_fits : s.fsm = .rxTc ∨ s.fsm = .rxPayload ∨ s.fsm = .rxTrailer → s.plen.toNat ≤ s.capl.toNat ∧ s.plen.toNat ≤ 253
  /-- the payload read is made only for a payload (42 R152, R154) -/
  rx_payload : s.fsm = .rxPayload → s.plen ≠ 0
  /-- after RX_TC the response's direction and code are the expected ones (42 R153) -/
  rx_code : s.fsm = .rxPayload ∨ s.fsm = .rxTrailer → s.rtfi = tfiC2H ∧ s.rcc = s.lastcmd + 1
  /-- a drain of the ErrorFrame is entered only if there is something to drain (42 R140, 43 R176) -/
  drain : s.fsm = .errDrain ∨ s.fsm = .rsDrain → 0 < s.cfg.errTrail

/-- How many BLOCK steps at most are left of the operation in progress (70 R250, 42 R160, 43 R178). -/
def Fsm.rank : Fsm → Nat
  | .idle => 0
  | .errDrain => 1
  | .appDrain => 1
  | .rsDrain => 1
  | .awaitAck => 2
  | .rsAck => 2
  | .txSend => 3
  | .rsSend => 3
  | .rsWake => 4
  | .rxTrailer => 5
  | .rxPayload => 6
  | .rxTc => 7
  | .rxHdr => 8

/-- The operations of the operation port (30 R86). -/
def isOperation (i : Instr) : Bool := i.port == .op

/-- The formats that arrive from the chip (30 R76 to R79, R75 NF-C2H). -/
def isReceived (i : Instr) : Bool := i.port == .ackRx || i.port == .frameRx

/-- The layouts written to DBUF and CASCBUF (30 R84, R85). -/
def isLayout (i : Instr) : Bool := i.port == .crcPair || i.port == .cascBuf

/-- The STATUS codes with which a BLOCK step in a given state can end the operation (60 R202 to R214, R227). -/
def Fsm.endCodes : Fsm → List Byte
  | .idle => []
  | .txSend => [0x01, 0x02]
  | .awaitAck => [0x00, 0x01, 0x02, 0x05]
  | .errDrain => [0x05]
  | .rxHdr => [0x01, 0x02, 0x03, 0x07, 0x08]
  | .appDrain => [0x06]
  | .rxTc => [0x01, 0x02, 0x09]
  | .rxPayload => [0x01, 0x02]
  | .rxTrailer => [0x00, 0x01, 0x02, 0x03, 0x04]
  | .rsWake => []
  | .rsSend => [0x0D]
  | .rsAck => [0x0D]
  | .rsDrain => [0x0D]

end Sys2Proof.Machine
end

