-- ==== Sys2Proof/Certificates/Slice0/Obligations.lean ====
section
/-! DEFINITION. The statements about the model, for the provers. Each docstring names the rule it formalises. -/

open Sys2Proof Sys2Proof.Machine

/-! ### A step runs the decoded instruction -/

/-- When the HOST's presented code decodes to an operation, the step is that operation's `exec`, after the code has left
the agenda; a code that decodes to none is refused (30 R86, R87; log 1). -/
def Obligations.StartRunsTheDecodedOperation : Prop :=
  ∀ (s : State) (opc : Byte) (rest : List Event), s.agenda = .start opc :: rest →
    (∀ i, decode s.cfg .op [opc] = .ok i → step s = exec i { s with agenda := rest }) ∧
    ((∀ i, decode s.cfg .op [opc] ≠ .ok i) → step s = .refused (.reservedOpcode opc))

/-- When the bytes on the wire decode, as an acknowledge or as a response, to a received format, the step is that format's
`exec`, after the event has left the agenda (30 R82; log 13). -/
def Obligations.WireRunsTheDecodedFormat : Prop :=
  ∀ (s : State) (bs : List Byte) (rest : List Event) (p : Port) (i : Instr),
    s.agenda = .wire bs :: rest → (p = .ackRx ∨ p = .frameRx) → decode s.cfg p bs = .ok i →
    step s = exec i { s with agenda := rest }

/-- With an empty agenda the step of a BLOCK that is about to send is the `exec` of the sent format (42 R137, 43 R174,
R175; log 2, log 13), and in every state it is the BLOCK's step. With an event at the head of the agenda that is no
instruction's, the step is, once the event has left the agenda: for `block` the BLOCK's step; for `arrive` the bytes'
arrival (10 R31); for `wire` with bytes that are no format the arrival, and the BLOCK's step if it waits (log 1, log 14). -/
def Obligations.BlockStepRunsTheSentFormat : Prop :=
  (∀ s : State, s.agenda = [] →
    step s = s.blockStep ∧
    (s.fsm = .rsWake → step s = exec .wake s) ∧
    (∀ cc payload, s.frameToSend = some (encode s.cfg (.nfH2C cc payload)) → step s = exec (.nfH2C cc payload) s)) ∧
  ∀ (s : State) (rest : List Event),
    (s.agenda = .block :: rest → step s = State.blockStep { s with agenda := rest }) ∧
    (∀ bs, s.agenda = .arrive bs :: rest → step s = .next { s with agenda := rest, pending := s.pending ++ bs }) ∧
    (∀ bs, s.agenda = .wire bs :: rest → (∀ i, decode s.cfg .ackRx bs ≠ .ok i) → (∀ i, decode s.cfg .frameRx bs ≠ .ok i) →
      step s = if s.fsm.receives then State.blockStep { s with agenda := rest, pending := s.pending ++ bs }
        else .next { s with agenda := rest, pending := s.pending ++ bs })

/-! ### Encodings -/

/-- Decoding what the encoder writes gives the instruction back, for every well-formed instruction. -/
def Obligations.DecodeAfterEncode : Prop :=
  ∀ (c : Params) (i : Instr), i.wf c = true → decode c i.port (encode c i) = .ok i

/-- Bytes that decode are the encoding of what they decode to: each encoding has one meaning at a port. -/
def Obligations.EncodeAfterDecode : Prop :=
  ∀ (c : Params) (p : Port) (bs : List Byte) (i : Instr), decode c p bs = .ok i →
    i.port = p ∧ i.wf c = true ∧ encode c i = bs

/-- Words of the spec (30 R86, R75, R78, R79, R85; vectors VF2, P4, G2, VR15, VK11) decode to what they stand for. -/
def Obligations.SpecWordsDecode : Prop :=
  ∀ c : Params,
    decode c .op [0x00] = .ok .crca ∧ decode c .op [0x03] = .ok .crcbApp ∧ decode c .op [0x04] = .ok .dcs ∧
    decode c .op [0x10] = .ok .casc ∧ decode c .op [0x21] = .ok .fcmd ∧ decode c .op [0x22] = .ok .frecv ∧
    decode c .frameTx [0x00, 0x00, 0xFF, 0x04, 0xFC, 0xD4, 0x4A, 0x01, 0x00, 0xE1, 0x00] =
      .ok (.nfH2C 0x4A [0x01, 0x00]) ∧
    decode c .frameRx [0x00, 0x00, 0xFF, 0x03, 0xFD, 0xD5, 0x4B, 0x00, 0xE0, 0x00] = .ok (.nfC2H 0x4B [0x00]) ∧
    decode c .frameRx [0x00, 0x00, 0xFF, 0x01, 0xFF, 0x7F, 0x81, 0x00] = .ok (.apperr 0x7F 0x81 0x00) ∧
    decode c .frameRx [0x00, 0x00, 0xFF, 0xFF, 0xFF, 0x01, 0x02, 0xFD] = .ok (.ext [0x01, 0x02, 0xFD]) ∧
    decode c .cascBuf [0x88, 0x04, 0x12, 0x34, 0xAA, 0xBB, 0xCC, 0xDD] =
      .ok (.casc7 0x04 0x12 0x34 0xAA 0xBB 0xCC 0xDD) ∧
    decode c .crcPair [0x26, 0xCF] = .ok (.crcPair 0x26 0xCF)

/-- Exactly the nine codes of R86 are operations; the other 247 are reserved (30 R87). -/
def Obligations.NineOpcodesAreOperations : Prop :=
  ∀ (c : Params) (opc : Byte), (∃ i, decode c .op [opc] = .ok i) ↔
    opc ∈ ([0x00, 0x01, 0x02, 0x03, 0x04, 0x10, 0x20, 0x21, 0x22] : List Byte)

/-- The layout of a normal frame, index by index, for both directions: TFI is 0xD4 in the frame the block emits and 0xD5 in
the one it accepts (30 R71, R72). -/
def Obligations.NormalFrameLayout : Prop :=
  ∀ (c : Params) (tfi cc : Byte) (payload frame : List Byte), payload.length ≤ 253 →
    (tfi = 0xD4 ∧ frame = encode c (.nfH2C cc payload) ∨ tfi = 0xD5 ∧ frame = encode c (.nfC2H cc payload)) →
    frame.length = payload.length + 9 ∧ frame.take 3 = [0x00, 0x00, 0xFF] ∧
    (∃ len lc, frame[3]? = some len ∧ frame[4]? = some lc ∧ len.toNat = payload.length + 2 ∧ 2 ≤ len.toNat ∧
      lc.toNat = (0x100 - len.toNat) % 256 ∧ frame.length = len.toNat + 7) ∧
    frame[5]? = some tfi ∧ frame[6]? = some cc ∧ (frame.drop 7).take payload.length = payload ∧
    (∃ d, frame[7 + payload.length]? = some d ∧
      (d.toNat : Int) = (0x100 - (tfi.toNat : Int) - cc.toNat - byteSum payload) % 256) ∧
    frame[8 + payload.length]? = some 0x00

/-! ### Checksums -/

/-- LCS is `(0x100 - LEN) mod 256`, the one byte that makes `LEN + LCS` 0 mod 256 (30 R73); DCS is the one byte that makes
its sum 0 mod 256 (30 R74); and it is the residue of its formula (40 R108). -/
def Obligations.ChecksumBytesMakeTheSumsZero : Prop :=
  (∀ len lc : Byte, (lcs len).toNat = (0x100 - len.toNat) % 256 ∧
    (lc = lcs len ↔ (len.toNat + lc.toNat) % 256 = 0)) ∧
  ∀ (tfi cmd d : Byte) (payload : List Byte),
    ((Sys2Proof.dcs tfi cmd payload).toNat : Int) =
      (0x100 - (tfi.toNat : Int) - cmd.toNat - byteSum payload) % 256 ∧
    (d = Sys2Proof.dcs tfi cmd payload ↔ (tfi.toNat + cmd.toNat + byteSum payload + d.toNat) % 256 = 0)

/-- The per-byte recurrence, on unbounded naturals: nothing is truncated in its last line (40 R101); and the core
function: the seed, one recurrence per byte in index order, one complement at the end (40 R102). -/
def Obligations.CrcFoldsTheRecurrence : Prop :=
  (∀ (crc : Half) (d : Byte) (b0 b : Nat), b0 = d.toNat ^^^ (crc.toNat % 256) → b = (b0 ^^^ (b0 <<< 4)) % 256 →
    (crcStep crc d).toNat = (crc.toNat >>> 8) ^^^ (b <<< 8) ^^^ (b <<< 3) ^^^ (b >>> 4)) ∧
  ∀ (seed : Half) (data : List Byte) (d : Byte),
    crc16 seed false [] = seed ∧
    crc16 seed false (data ++ [d]) = crcStep (crc16 seed false data) d ∧
    crc16 seed true data = crc16 seed false data ^^^ 0xFFFF

/-- The byte-wise recurrence equals the bit-serial generator with constant 0x8408, for every seed and data (40 R107). -/
def Obligations.CrcEqualsBitSerial : Prop :=
  ∀ (seed : Half) (data : List Byte), crc16 seed false data = crcSerial seed data

/-- Data followed by its own CRC leaves a constant residue: 0x0000 for A, 0xF0B8 before the complement for B (40 R112). -/
def Obligations.CrcResidues : Prop :=
  ∀ data : List Byte,
    crc16 0x6363 false (data ++ [crcLo (crc16 0x6363 false data), crcHi (crc16 0x6363 false data)]) = 0x0000 ∧
    crc16 0xFFFF false (data ++ [crcLo (crc16 0xFFFF true data), crcHi (crc16 0xFFFF true data)]) = 0xF0B8

/-- CRCA, OPC 0x00: accepted in IDLE with LEN ≤ DCAP, else refused; CRCR and the status pair, nothing else (40 R103). -/
def Obligations.CrcaResult : Prop :=
  ∀ s : State, decode s.cfg .op [0x00] = .ok .crca ∧
    (s.fsm ≠ .idle → exec .crca s = .refused .busy) ∧
    (s.fsm = .idle → s.cfg.dcap < s.len.toNat → exec .crca s = .refused .outsideBuffer) ∧
    (s.fsm = .idle → s.len.toNat ≤ s.cfg.dcap →
      exec .crca s = .next { s with
        crcr := crc16 0x6363 false (s.memRead .dbuf 0 s.len.toNat), status := 0x00, errinfo := 0 })

/-- CRCB, OPC 0x02: the same with seed 0xFFFF and one complement at the end (40 R105). -/
def Obligations.CrcbResult : Prop :=
  ∀ s : State, decode s.cfg .op [0x02] = .ok .crcb ∧
    (s.fsm ≠ .idle → exec .crcb s = .refused .busy) ∧
    (s.fsm = .idle → s.cfg.dcap < s.len.toNat → exec .crcb s = .refused .outsideBuffer) ∧
    (s.fsm = .idle → s.len.toNat ≤ s.cfg.dcap →
      exec .crcb s = .next { s with
        crcr := crc16 0xFFFF true (s.memRead .dbuf 0 s.len.toNat), status := 0x00, errinfo := 0 })

/-- CRCA.APP (seed 0x6363, not complemented) and CRCB.APP (seed 0xFFFF, complemented): the pair at DBUF[LEN],
DBUF[LEN+1], low byte first; CRCR; RLEN = LEN + 2 where RLEN's 16 bits hold it (elsewhere log 10's free value); the
status pair; every other byte and register unchanged (40 R104, R106). -/
def Obligations.CrcAppendResult : Prop :=
  ∀ (s : State) (i : Instr) (c : Half), s.fsm = .idle → s.len.toNat + 2 ≤ s.cfg.dcap →
    (i = .crcaApp ∧ c = crc16 0x6363 false (s.memRead .dbuf 0 s.len.toNat) ∨
      i = .crcbApp ∧ c = crc16 0xFFFF true (s.memRead .dbuf 0 s.len.toNat)) →
    ∃ t, exec i s = .next t ∧ t.crcr = c ∧
      t.readByte .dbuf s.len.toNat = c.setWidth 8 ∧
      t.readByte .dbuf (s.len.toNat + 1) = (c >>> 8).setWidth 8 ∧
      (s.len.toNat + 2 < 65536 → t.rlen.toNat = s.len.toNat + 2) ∧
      t.status = 0x00 ∧ t.errinfo = 0 ∧
      (∀ b a, ¬ (b = .dbuf ∧ s.len.toNat ≤ a ∧ a < s.len.toNat + 2) → t.readByte b a = s.readByte b a) ∧
      { t with dbuf := s.dbuf, crcr := s.crcr, rlen := s.rlen, status := s.status, errinfo := s.errinfo } = s

/-- Checksum round-trip: after an append, the CRC over the data alone equals the two appended bytes (40 R112, S1). -/
def Obligations.AppendThenRecompute : Prop :=
  ∀ (s t : State), s.len.toNat + 2 ≤ s.cfg.dcap →
    (exec .crcaApp s = .next t → ∃ u, exec .crca t = .next u ∧
      u.crcr.setWidth 8 = t.readByte .dbuf s.len.toNat ∧
      (u.crcr >>> 8).setWidth 8 = t.readByte .dbuf (s.len.toNat + 1)) ∧
    (exec .crcbApp s = .next t → ∃ u, exec .crcb t = .next u ∧
      u.crcr.setWidth 8 = t.readByte .dbuf s.len.toNat ∧
      (u.crcr >>> 8).setWidth 8 = t.readByte .dbuf (s.len.toNat + 1))

/-- DCS, OPC 0x04: accepted in IDLE with LEN ≤ PCAP, whatever MAX_PAYLOAD is, else refused; DCSR and the status pair,
nothing else (40 R109). -/
def Obligations.DcsResult : Prop :=
  ∀ s : State, decode s.cfg .op [0x04] = .ok .dcs ∧
    (s.fsm ≠ .idle → exec .dcs s = .refused .busy) ∧
    (s.fsm = .idle → s.cfg.pcap < s.len.toNat → exec .dcs s = .refused .outsideBuffer) ∧
    (s.fsm = .idle → s.len.toNat ≤ s.cfg.pcap →
      exec .dcs s = .next { s with
        dcsr := Sys2Proof.dcs s.tfi s.cmd (s.memRead .pbuf 0 s.len.toNat), status := 0x00, errinfo := 0 })

/-- CRC-PAIR completes in IDLE with LEN + 2 ≤ DCAP, laid down low byte first at DBUF[LEN], DBUF[LEN+1] (30 R84, 20 R54);
that a layout has an `exec` is log 13's choice, and its CRCR, RLEN and status pair are log 26's. CRCA.APP is the laying of
the CRC it computes, `s.crcA`, and CRCB.APP of its own, `s.crcB` (40 R104, R106): the A and the B CRC of DBUF[0..LEN). -/
def Obligations.CrcPairIsLaidDown : Prop :=
  ∀ s : State, s.fsm = .idle → s.len.toNat + 2 ≤ s.cfg.dcap →
    (∀ lo hi, ∃ t, exec (.crcPair lo hi) s = .next t ∧ t.crcr.toNat = hi.toNat * 256 + lo.toNat ∧
      t.readByte .dbuf s.len.toNat = lo ∧ t.readByte .dbuf (s.len.toNat + 1) = hi ∧
      (s.len.toNat + 2 < 65536 → t.rlen.toNat = s.len.toNat + 2) ∧ t.status = 0x00 ∧ t.errinfo = 0 ∧
      (∀ b a, ¬ (b = .dbuf ∧ s.len.toNat ≤ a ∧ a < s.len.toNat + 2) → t.readByte b a = s.readByte b a) ∧
      { t with dbuf := s.dbuf, crcr := s.crcr, rlen := s.rlen, status := s.status, errinfo := s.errinfo } = s) ∧
    exec .crcaApp s = exec (.crcPair (crcLo s.crcA) (crcHi s.crcA)) s ∧
    exec .crcbApp s = exec (.crcPair (crcLo s.crcB) (crcHi s.crcB)) s ∧
    s.crcA = crc16 0x6363 false (s.memRead .dbuf 0 s.len.toNat) ∧
    s.crcB = crc16 0xFFFF true (s.memRead .dbuf 0 s.len.toNat)

/-! ### The cascade encoder -/

/-- CASC, OPC 0x10. In IDLE, for LEN = 4, 7, 10: the bytes of the table at CASCBUF[0..RLEN), RLEN, the status pair, nothing
else. For every other LEN: InvalidUidLength, and nothing but the status pair is written (41 R121, R122). -/
def Obligations.CascEncodesTheUid : Prop :=
  ∀ s : State, decode s.cfg .op [0x10] = .ok .casc ∧ (s.fsm ≠ .idle → exec .casc s = .refused .busy) ∧
    (s.fsm = .idle →
      (∀ out : List Byte,
        (s.len.toNat = 4 ∧ out = s.memRead .uidbuf 0 4 ∨
          s.len.toNat = 7 ∧ out = 0x88 :: s.memRead .uidbuf 0 7 ∨
          s.len.toNat = 10 ∧ out = 0x88 :: s.memRead .uidbuf 0 3 ++ 0x88 :: s.memRead .uidbuf 3 7) →
        ∃ t, exec .casc s = .next t ∧ t.memRead .cascbuf 0 out.length = out ∧ t.rlen.toNat = out.length ∧
          t.status = 0x00 ∧ t.errinfo = 0 ∧
          (∀ b a, ¬ (b = .cascbuf ∧ a < out.length) → t.readByte b a = s.readByte b a) ∧
          { t with cascbuf := s.cascbuf, rlen := s.rlen, status := s.status, errinfo := s.errinfo } = s) ∧
      (s.len.toNat ≠ 4 → s.len.toNat ≠ 7 → s.len.toNat ≠ 10 →
        exec .casc s = .next { s with status := 0x0A, errinfo := 0 }))

/-- CASC4, CASC7 and CASC10: the layouts of R85 at CASCBUF[0..) (30 R85). That a layout has an `exec` is log 13's choice;
that it is accepted in IDLE for any bytes, and writes RLEN, STATUS 0x00 and ERRINFO 0 and nothing else, is log 26's. CASC is
the laying of the one its LEN selects (41 R121). -/
def Obligations.CascadeLayoutsAreLaidDown : Prop :=
  ∀ (s : State) (u0 u1 u2 u3 u4 u5 u6 u7 u8 u9 : Byte) (i : Instr) (out : List Byte), s.fsm = .idle →
    (i = .casc4 u0 u1 u2 u3 ∧ out = [u0, u1, u2, u3] ∨
      i = .casc7 u0 u1 u2 u3 u4 u5 u6 ∧ out = [0x88, u0, u1, u2, u3, u4, u5, u6] ∨
      i = .casc10 u0 u1 u2 u3 u4 u5 u6 u7 u8 u9 ∧
        out = [0x88, u0, u1, u2, 0x88, u3, u4, u5, u6, u7, u8, u9]) →
    (∃ t, exec i s = .next t ∧ t.memRead .cascbuf 0 out.length = out ∧ t.rlen.toNat = out.length ∧
      t.status = 0x00 ∧ t.errinfo = 0 ∧
      (∀ b a, ¬ (b = .cascbuf ∧ a < out.length) → t.readByte b a = s.readByte b a) ∧
      { t with cascbuf := s.cascbuf, rlen := s.rlen, status := s.status, errinfo := s.errinfo } = s) ∧
    (s.len = 4 → s.memRead .uidbuf 0 4 = [u0, u1, u2, u3] → exec .casc s = exec (.casc4 u0 u1 u2 u3) s) ∧
    (s.len = 7 → s.memRead .uidbuf 0 7 = [u0, u1, u2, u3, u4, u5, u6] →
      exec .casc s = exec (.casc7 u0 u1 u2 u3 u4 u5 u6) s) ∧
    (s.len = 10 → s.memRead .uidbuf 0 10 = [u0, u1, u2, u3, u4, u5, u6, u7, u8, u9] →
      exec .casc s = exec (.casc10 u0 u1 u2 u3 u4 u5 u6 u7 u8 u9) s)

/-! ### The frame codec, command side -/

/-- FBUILD with LEN ≤ MAX_PAYLOAD: the frame in TXBUF[0..LEN+9), TXLEN, RLEN, LASTCMD, the status pair, nothing else
(42 R134, R132, R133). -/
def Obligations.FbuildBuildsTheFrame : Prop :=
  ∀ s : State, s.fsm = .idle → s.len.toNat ≤ s.cfg.maxPayload →
    ∃ t, exec .fbuild s = .next t ∧
      t.memRead .txbuf 0 (s.len.toNat + 9) = buildFrame s.cmd (s.memRead .pbuf 0 s.len.toNat) ∧
      t.txlen.toNat = s.len.toNat + 9 ∧ t.rlen.toNat = s.len.toNat + 9 ∧ t.lastcmd = s.cmd ∧
      t.status = 0x00 ∧ t.errinfo = 0 ∧
      (∀ b a, ¬ (b = .txbuf ∧ a < s.len.toNat + 9) → t.readByte b a = s.readByte b a) ∧
      { t with txbuf := s.txbuf, txlen := s.txlen, rlen := s.rlen, lastcmd := s.lastcmd, status := s.status,
               errinfo := s.errinfo } = s

/-- FCMD's first step with LEN ≤ MAX_PAYLOAD: the build step, and FSM is TX_SEND; RLEN and the status pair keep their
values (42 R136, R132, R133). -/
def Obligations.FcmdBuildsThenSends : Prop :=
  ∀ s : State, s.fsm = .idle → s.len.toNat ≤ s.cfg.maxPayload →
    ∃ t, exec .fcmd s = .next t ∧
      t.memRead .txbuf 0 (s.len.toNat + 9) = buildFrame s.cmd (s.memRead .pbuf 0 s.len.toNat) ∧
      t.txlen.toNat = s.len.toNat + 9 ∧ t.lastcmd = s.cmd ∧ t.fsm = .txSend ∧
      (∀ b a, ¬ (b = .txbuf ∧ a < s.len.toNat + 9) → t.readByte b a = s.readByte b a) ∧
      { t with txbuf := s.txbuf, txlen := s.txlen, lastcmd := s.lastcmd, fsm := s.fsm } = s

/-- FBUILD and FCMD with LEN > MAX_PAYLOAD: PayloadTooLarge, nothing but the status pair written (42 R132, 60 R212). -/
def Obligations.BuildRejectsLongPayload : Prop :=
  ∀ (s : State) (i : Instr), i = .fbuild ∨ i = .fcmd → s.fsm = .idle → s.cfg.maxPayload < s.len.toNat →
    exec i s = .next { s with status := 0x0B, errinfo := 0 }

/-- The step in TX_SEND: the frame in TXBUF is sent; ok leads to AWAIT_ACK, a failure is raised verbatim (42 R137). -/
def Obligations.TxSendStep : Prop :=
  ∀ (s : State) (t : State), s.fsm = .txSend → s.txlen.toNat ≤ 262 →
    t = s.afterSend (s.memRead .txbuf 0 s.txlen.toNat) →
    (s.sendFails = none → s.blockStep = .next { t with fsm := .awaitAck }) ∧
    (s.sendFails = some .timeout → s.blockStep = .next { t with status := 0x01, errinfo := 0, fsm := .idle }) ∧
    (∀ info, s.sendFails = some (.error info) →
      s.blockStep = .next { t with status := 0x02, errinfo := info, fsm := .idle })

/-- The step in AWAIT_ACK (42 R138 to R141, R143); TransportError for six other bytes is R141's, the spec's own decision
D13. -/
def Obligations.AwaitAckStep : Prop :=
  ∀ (s : State), s.fsm = .awaitAck →
    (∀ bs, s.recvReply 6 = .ok bs →
      s.blockStep = .next
        (if bs = s.cfg.ackFrame then { s.afterRecv 6 with status := 0x00, errinfo := 0, rlen := 0, fsm := .idle }
         else if bs = s.cfg.errFrame then
           if s.cfg.errTrail = 0 then { s.afterRecv 6 with status := 0x05, errinfo := 0, fsm := .idle }
           else { s.afterRecv 6 with fsm := .errDrain }
         else { s.afterRecv 6 with status := 0x02, errinfo := 0, fsm := .idle })) ∧
    (s.recvReply 6 = .error .timeout →
      s.blockStep = .next { s.afterRecv 6 with status := 0x01, errinfo := 0, fsm := .idle }) ∧
    (∀ info, s.recvReply 6 = .error (.error info) →
      s.blockStep = .next { s.afterRecv 6 with status := 0x02, errinfo := info, fsm := .idle })

/-- The drains end with the error being recovered from whatever the transport answers: ERR_DRAIN with ProtocolError,
APP_DRAIN with ApplicationError, RS_DRAIN with Aborted (42 R142, R147, 43 R177). -/
def Obligations.DrainsKeepTheirError : Prop :=
  ∀ s : State,
    (s.fsm = .errDrain →
      s.blockStep = .next { s.afterRecv s.cfg.errTrail with status := 0x05, errinfo := 0, fsm := .idle }) ∧
    (s.fsm = .appDrain → s.blockStep = .next { s.afterRecv 3 with status := 0x06, errinfo := 0, fsm := .idle }) ∧
    (s.fsm = .rsDrain →
      s.blockStep = .next { s.afterRecv s.cfg.errTrail with status := 0x0D, errinfo := 0, fsm := .idle })

/-! ### The frame codec, response side -/

/-- FRECV, OPC 0x22, its first step: accepted in IDLE with CAP ≤ RXCAP, else refused; CAPL and FSM, no transport call,
nothing else (42 R144). -/
def Obligations.FrecvStarts : Prop :=
  ∀ s : State, decode s.cfg .op [0x22] = .ok .frecv ∧
    (s.fsm ≠ .idle → exec .frecv s = .refused .busy) ∧
    (s.fsm = .idle → s.cfg.rxcap < s.cap.toNat → exec .frecv s = .refused .outsideBuffer) ∧
    (s.fsm = .idle → s.cap.toNat ≤ s.cfg.rxcap → exec .frecv s = .next { s with capl := s.cap, fsm := .rxHdr })

/-- The header checks in their fixed order, first match wins (42 R145, R146, R148 to R151; 30 R82); FramingError for
LEN < 2 is R150's, the spec's own decision D14. -/
def Obligations.RxHdrStep : Prop :=
  ∀ (s r : State) (h0 h1 h2 h3 h4 : Byte), s.fsm = .rxHdr → s.abortp = false →
    s.recvReply 5 = .ok [h0, h1, h2, h3, h4] → r = s.afterRecv 5 →
    s.blockStep = .next
      (if h0 ≠ 0x00 ∨ h1 ≠ 0x00 ∨ h2 ≠ 0xFF then { r with status := 0x03, errinfo := 0, fsm := .idle }
       else if h3 = 0x01 ∧ h4 = 0xFF then { r with fsm := .appDrain }
       else if h3 = 0xFF ∧ h4 = 0xFF then { r with status := 0x07, errinfo := 0, fsm := .idle }
       else if (h3.toNat + h4.toNat) % 256 ≠ 0 then { r with status := 0x03, errinfo := 0, fsm := .idle }
       else if h3.toNat < 2 then { r with status := 0x03, errinfo := 0, fsm := .idle }
       else if s.capl.toNat < h3.toNat - 2 then { r with status := 0x08, errinfo := 0, fsm := .idle }
       else { r with plen := h3 - 2, fsm := .rxTc })

/-- TFI and command code: latched, then tested; the `+ 1` wraps; an empty payload skips the payload read (42 R152, R153). -/
def Obligations.RxTcStep : Prop :=
  ∀ (s r : State) (t cc : Byte), s.fsm = .rxTc → s.abortp = false → s.recvReply 2 = .ok [t, cc] →
    r = { s.afterRecv 2 with rtfi := t, rcc := cc } →
    s.blockStep = .next
      (if t ≠ 0xD5 ∨ cc.toNat ≠ (s.lastcmd.toNat + 1) % 256 then
         { r with status := 0x09, errinfo := 0, fsm := .idle }
       else if s.plen = 0 then { r with fsm := .rxTrailer }
       else { r with fsm := .rxPayload })

/-- The payload is stored at RXBUF[0..PLEN) before its checksum is verified; nothing else changes but what the receive
changes (42 R154). -/
def Obligations.RxPayloadStep : Prop :=
  ∀ (s : State) (bs : List Byte), s.fsm = .rxPayload → s.abortp = false → s.plen.toNat ≤ s.cfg.rxcap →
    s.recvReply s.plen.toNat = .ok bs →
    ∃ t, s.blockStep = .next t ∧ t.fsm = .rxTrailer ∧ t.memRead .rxbuf 0 s.plen.toNat = bs ∧
      (∀ b a, ¬ (b = .rxbuf ∧ a < s.plen.toNat) → t.readByte b a = s.readByte b a) ∧
      { t with rxbuf := s.rxbuf, fsm := s.fsm } = s.afterRecv s.plen.toNat

/-- The trailer: the DCS is tested first, over the bytes as received, then the postamble; success writes RLEN and advances
LASTCMD, here only (42 R155 to R157). -/
def Obligations.RxTrailerStep : Prop :=
  ∀ (s r : State) (d p : Byte), s.fsm = .rxTrailer → s.abortp = false → s.plen.toNat ≤ s.cfg.rxcap →
    s.recvReply 2 = .ok [d, p] → r = s.afterRecv 2 →
    s.blockStep = .next
      (if d ≠ Sys2Proof.dcs s.rtfi s.rcc (s.memRead .rxbuf 0 s.plen.toNat) then
         { r with status := 0x04, errinfo := 0, fsm := .idle }
       else if p ≠ 0x00 then { r with status := 0x03, errinfo := 0, fsm := .idle }
       else { r with lastcmd := s.lastcmd + 1, rlen := s.plen.setWidth 16, status := 0x00, errinfo := 0, fsm := .idle })

/-- A failed receive of FRECV ends with the transport's answer; LASTCMD, RLEN and every byte are unchanged, but for
RXBUF[0..PLEN) after a failed payload receive, which nothing is said of (42 R158, R163). -/
def Obligations.FailedReceiveStep : Prop :=
  ∀ (s : State) (n : Nat) (e : TransportFail), s.abortp = false →
    (s.fsm = .rxHdr ∧ n = 5 ∨ s.fsm = .rxTc ∧ n = 2 ∨
      s.fsm = .rxPayload ∧ n = s.plen.toNat ∧ s.plen.toNat ≤ s.cfg.rxcap ∨
      s.fsm = .rxTrailer ∧ n = 2 ∧ s.plen.toNat ≤ s.cfg.rxcap) →
    s.recvReply n = .error e →
    ∃ t, s.blockStep = .next t ∧ t.fsm = .idle ∧
      (e = .timeout → t.status = 0x01 ∧ t.errinfo = 0) ∧
      (∀ info, e = .error info → t.status = 0x02 ∧ t.errinfo = info) ∧
      (∀ b a, ¬ (s.fsm = .rxPayload ∧ b = .rxbuf ∧ a < s.plen.toNat) → t.readByte b a = s.readByte b a) ∧
      { t with rxbuf := s.rxbuf, draws := (s.afterRecv n).draws, status := s.status, errinfo := s.errinfo,
               fsm := s.fsm } = s.afterRecv n

/-! ### The abort -/

/-- The ABORT event sets the latch in the four abortable states and is dropped, not remembered, in every other
(43 R173, 10 R26, R27). -/
def Obligations.AbortEventIsLatchedOrDropped : Prop :=
  ∀ (s : State) (rest : List Event), s.agenda = .abort :: rest →
    (s.fsm = .rxHdr ∨ s.fsm = .rxTc ∨ s.fsm = .rxPayload ∨ s.fsm = .rxTrailer →
      step s = .next { s with agenda := rest, abortp := true }) ∧
    (s.fsm ≠ .rxHdr → s.fsm ≠ .rxTc → s.fsm ≠ .rxPayload → s.fsm ≠ .rxTrailer →
      step s = .next { s with agenda := rest })

/-- A pending abort is taken by the BLOCK's next step, before the state's transport read, whatever has arrived
(43 R172, 60 R219). -/
def Obligations.PendingAbortIsTaken : Prop :=
  ∀ s : State, s.abortp = true →
    (s.fsm = .rxHdr ∨ s.fsm = .rxTc ∨ s.fsm = .rxPayload ∨ s.fsm = .rxTrailer) →
    s.blockStep = .next { s with abortp := false, fsm := .rsWake }

/-- The steps of RS_WAKE, RS_SEND and RS_ACK (43 R174 to R176). -/
def Obligations.ResyncSteps : Prop :=
  ∀ s : State,
    (s.fsm = .rsWake → s.blockStep = .next { s.afterSend s.cfg.wakeupFrame with fsm := .rsSend }) ∧
    (s.fsm = .rsAck → s.blockStep = .next
      (if s.recvReply 6 = .ok s.cfg.errFrame ∧ 0 < s.cfg.errTrail then { s.afterRecv 6 with fsm := .rsDrain }
       else { s.afterRecv 6 with status := 0x0D, errinfo := 0, fsm := .idle })) ∧
    (s.fsm = .rsSend → ∃ t, s.blockStep = .next t ∧
      t.memRead .txbuf 0 (s.cfg.probePayload.length + 9) = buildFrame s.cfg.probeCmd s.cfg.probePayload ∧
      t.txlen.toNat = s.cfg.probePayload.length + 9 ∧
      t.calls = .send (buildFrame s.cfg.probeCmd s.cfg.probePayload) s.tmo :: s.calls ∧
      (∀ b a, ¬ (b = .txbuf ∧ a < s.cfg.probePayload.length + 9) → t.readByte b a = s.readByte b a) ∧
      (s.sendFails = none → t.fsm = .rsAck ∧ t.status = s.status ∧ t.errinfo = s.errinfo) ∧
      (s.sendFails ≠ none → t.fsm = .idle ∧ t.status = 0x0D ∧ t.errinfo = 0) ∧
      { t with txbuf := s.txbuf, txlen := s.txlen, fsm := s.fsm, status := s.status, errinfo := s.errinfo } =
        s.afterSend (buildFrame s.cfg.probeCmd s.cfg.probePayload))

/-! ### The transport primitives -/

/-- `RxRecv(n)`: success is exactly the oldest `n` pending bytes, which are gone from the stream; a failure loses fewer
than `n` (20 R59, R57; how the loss is drawn is log 8's choice). `TxSend(S)` hands the bytes on (20 R58). Both are made
with TMO and change nothing of the block (20 R66). The model's choices: the answers and that bytes arrive during a receive
(log 7), that they arrive during a send and a failed send's call (log 25), and the record of calls (log 16). -/
def Obligations.TransportPrimitives : Prop :=
  (∀ (s : State) (n : Nat), 1 ≤ n →
    (∀ bs, s.recvReply n = .ok bs → bs.length = n ∧
      ∃ arrived, s.pending ++ arrived = bs ++ (s.afterRecv n).pending) ∧
    (∀ e, s.recvReply n = .error e →
      ∃ arrived k, k < n ∧ (s.afterRecv n).pending = (s.pending ++ arrived).drop k) ∧
    (s.afterRecv n).calls = .recv n s.tmo :: s.calls ∧
    { s.afterRecv n with calls := s.calls, pending := s.pending, answers := s.answers, draws := s.draws } = s) ∧
  ∀ (s : State) (bs : List Byte),
    (s.afterSend bs).calls = .send bs s.tmo :: s.calls ∧
    (∃ arrived, (s.afterSend bs).pending = s.pending ++ arrived) ∧
    { s.afterSend bs with calls := s.calls, pending := s.pending, answers := s.answers, draws := s.draws } = s

/-- A step makes at most one transport call, and hands it TMO unchanged (00 R12, 20 R66). -/
def Obligations.AtMostOneCallPerStep : Prop :=
  ∀ s t : State, step s = .next t →
    t.calls = s.calls ∨ (∃ bs, t.calls = .send bs s.tmo :: s.calls) ∨ (∃ n, t.calls = .recv n s.tmo :: s.calls)

/-! ### The wire formats -/

/-- A received format that comes while the BLOCK waits for nothing joins the pending stream (10 R31); in a state whose
step is a receive, whatever is pending already, its `exec` is the BLOCK's step after the bytes have arrived (log 13). -/
def Obligations.FormatsArriveWhenNothingWaits : Prop :=
  ∀ (s : State) (i : Instr), isReceived i = true →
    (s.fsm = .idle ∨ s.fsm = .txSend ∨ s.fsm = .rsWake ∨ s.fsm = .rsSend →
      exec i s = .next { s with pending := s.pending ++ encode s.cfg i }) ∧
    (s.fsm ≠ .idle → s.fsm ≠ .txSend → s.fsm ≠ .rsWake → s.fsm ≠ .rsSend →
      exec i s = State.blockStep { s with pending := s.pending ++ encode s.cfg i })

/-- ACK and ERR, the stream empty and the receive succeeding. ACK: in AWAIT_ACK the command succeeds with RLEN 0, in
RS_ACK the aborted operation ends (30 R76, 42 R139, 43 R176). ERR: its trailing bytes are left for the drain, and if it has
none the operation ends, ProtocolError in AWAIT_ACK and Aborted in RS_ACK (30 R77, 42 R140, 43 R176). -/
def Obligations.AcknowledgeFormats : Prop :=
  ∀ (s r : State) (lost : Nat) (rest : List Answer), s.pending = [] → s.answers = ⟨[], .ok, lost⟩ :: rest →
    r = { s with answers := rest, calls := .recv 6 s.tmo :: s.calls } →
    (s.fsm = .awaitAck →
      exec .ack s = .next { r with status := 0x00, errinfo := 0, rlen := 0, fsm := .idle } ∧
      ∀ tail, exec (.err tail) s = .next
        (if s.cfg.errTrail = 0 then { r with pending := tail, status := 0x05, errinfo := 0, fsm := .idle }
         else { r with pending := tail, fsm := .errDrain })) ∧
    (s.fsm = .rsAck →
      exec .ack s = .next { r with status := 0x0D, errinfo := 0, fsm := .idle } ∧
      ∀ tail, exec (.err tail) s = .next
        (if s.cfg.errTrail = 0 then { r with pending := tail, status := 0x0D, errinfo := 0, fsm := .idle }
         else { r with pending := tail, fsm := .rsDrain }))

/-- In RX_HDR, the stream empty and the receive succeeding: APPERR leads to the drain of its last three bytes, EXT ends
UnsupportedFrame with the rest pending, NF-C2H is accepted if its payload fits and else ends BufferTooSmall
(30 R78, R79, R75; 42 R145, R146, R148, R151). -/
def Obligations.ResponseFormatsInRxHdr : Prop :=
  ∀ (s r : State) (lost : Nat) (rest : List Answer), s.pending = [] → s.answers = ⟨[], .ok, lost⟩ :: rest →
    s.fsm = .rxHdr → s.abortp = false → r = { s with answers := rest, calls := .recv 5 s.tmo :: s.calls } →
    (∀ x0 x1 x2, exec (.apperr x0 x1 x2) s = .next { r with pending := [x0, x1, x2], fsm := .appDrain }) ∧
    (∀ more, exec (.ext more) s = .next { r with pending := more, status := 0x07, errinfo := 0, fsm := .idle }) ∧
    (∀ cc payload, payload.length ≤ 253 →
      exec (.nfC2H cc payload) s = .next
        (if s.capl.toNat < payload.length then
           { r with pending := (encode s.cfg (.nfC2H cc payload)).drop 5, status := 0x08, errinfo := 0, fsm := .idle }
         else { r with pending := (encode s.cfg (.nfC2H cc payload)).drop 5,
                       plen := BitVec.ofNat 8 payload.length, fsm := .rxTc }))

/-- NF-H2C in TX_SEND, the built frame being it, and in RS_SEND, the probe being it: it is sent (30 R75, 42 R137,
43 R175); WAKE in RS_WAKE is sent whatever the answer (30 R80, 43 R174). Either is refused where it is not the frame the
BLOCK is about to send, as a step that does not exist (00 R11; that the formats have an `exec` at all is log 13's
choice). -/
def Obligations.SentFormatsAreSent : Prop :=
  ∀ s : State,
    (∀ cc payload, s.fsm = .txSend → s.txlen.toNat ≤ 262 → s.sendFails = none →
      s.memRead .txbuf 0 s.txlen.toNat = encode s.cfg (.nfH2C cc payload) →
      exec (.nfH2C cc payload) s =
        .next { s.afterSend (encode s.cfg (.nfH2C cc payload)) with fsm := .awaitAck }) ∧
    (∀ cc payload, s.fsm = .rsSend → s.cfg.probeCmd = cc → s.cfg.probePayload = payload →
      ∃ t, exec (.nfH2C cc payload) s = .next t ∧
        t.calls = .send (encode s.cfg (.nfH2C cc payload)) s.tmo :: s.calls) ∧
    (s.fsm = .rsWake → exec .wake s = .next { s.afterSend (encode s.cfg .wake) with fsm := .rsSend }) ∧
    (∀ cc payload,
      ¬ (s.fsm = .txSend ∧ s.memRead .txbuf 0 s.txlen.toNat = encode s.cfg (.nfH2C cc payload)) →
      ¬ (s.fsm = .rsSend ∧ buildFrame s.cfg.probeCmd s.cfg.probePayload = encode s.cfg (.nfH2C cc payload)) →
      exec (.nfH2C cc payload) s = .refused .notTheFrameToSend) ∧
    (s.fsm ≠ .rsWake → exec .wake s = .refused .notTheFrameToSend)

/-! ### Refusal -/

/-- An operation started while FSM is not IDLE is refused (60 R216(b)). So is a layout: that it can be started at all, and
under its operation's conditions, is the model's choice (log 13, log 26), not R216's. -/
def Obligations.BusyBlockRefuses : Prop :=
  ∀ (s : State) (i : Instr), isOperation i = true ∨ isLayout i = true → s.fsm ≠ .idle → exec i s = .refused .busy

/-- An operand that would take an access outside a buffer is refused, in IDLE, before anything is read or written; FBUILD,
FCMD and CASC never are (60 R217, 20 R52). CRC-PAIR is refused as the append operations are, and the other layouts never:
the model's choice (log 26). -/
def Obligations.OutsideBufferIsRefused : Prop :=
  ∀ s : State, s.fsm = .idle →
    (s.cfg.dcap < s.len.toNat → exec .crca s = .refused .outsideBuffer ∧ exec .crcb s = .refused .outsideBuffer) ∧
    (s.cfg.dcap < s.len.toNat + 2 →
      exec .crcaApp s = .refused .outsideBuffer ∧ exec .crcbApp s = .refused .outsideBuffer ∧
      ∀ lo hi, exec (.crcPair lo hi) s = .refused .outsideBuffer) ∧
    (s.cfg.pcap < s.len.toNat → exec .dcs s = .refused .outsideBuffer) ∧
    (s.cfg.rxcap < s.cap.toNat → exec .frecv s = .refused .outsideBuffer) ∧
    (∀ i, i = .fbuild ∨ i = .fcmd ∨ i = .casc ∨ i.port = .cascBuf → ∃ t, exec i s = .next t)

/-- A HOST write is accepted in IDLE only, changes the one register or the bytes it names, and stays inside the buffer
(70 R240, 10 R34, 20 R52). -/
def Obligations.HostWritesInIdleOnly : Prop :=
  ∀ (s : State) (w : HostWrite) (rest : List Event), s.agenda = .host w :: rest →
    (s.fsm ≠ .idle → step s = .refused .hostWriteBusy) ∧
    (s.fsm = .idle →
      (∀ v, w = .len v → step s = .next { s with agenda := rest, len := v }) ∧
      (∀ v, w = .cmd v → step s = .next { s with agenda := rest, cmd := v }) ∧
      (∀ v, w = .tfi v → step s = .next { s with agenda := rest, tfi := v }) ∧
      (∀ v, w = .cap v → step s = .next { s with agenda := rest, cap := v }) ∧
      (∀ v, w = .tmo v → step s = .next { s with agenda := rest, tmo := v }) ∧
      (∀ b i vs, w = .bytes b i vs →
        (bufCapacity s.cfg b < i + vs.length → step s = .refused .outsideBuffer) ∧
        (i + vs.length ≤ bufCapacity s.cfg b → ∃ t, step s = .next t ∧ t.memRead b i vs.length = vs ∧
          (∀ b' a, ¬ (b' = b ∧ i ≤ a ∧ a < i + vs.length) → t.readByte b' a = s.readByte b' a) ∧
          t.setBuf b (s.buf b) = { s with agenda := rest })))

/-! ### Reset -/

/-- The values the spec gives for reset (10 R32, 70 R231); nothing has been written to a buffer. -/
def Obligations.ResetValues : Prop :=
  State.reset.fsm = .idle ∧ State.reset.abortp = false ∧ State.reset.status = 0x00 ∧ State.reset.errinfo = 0 ∧
    State.reset.lastcmd = State.reset.cfg.lastcmdReset ∧ ∀ b, State.reset.buf b = []

/-- The reset event, in any FSM state: the values of R231 at once; the parameters and the transport's stream are not
touched, and no transport call is made (70 R231, R232). -/
def Obligations.ResetEventGivesResetValues : Prop :=
  ∀ (s : State) (rest : List Event), s.agenda = .reset :: rest →
    ∃ t, step s = .next t ∧ t.fsm = .idle ∧ t.abortp = false ∧ t.status = 0x00 ∧ t.errinfo = 0 ∧
      t.lastcmd = s.cfg.lastcmdReset ∧ (∀ b, t.buf b = []) ∧ t.cfg = s.cfg ∧ t.pending = s.pending ∧
      t.calls = s.calls ∧ t.answers = s.answers ∧ t.agenda = rest

/-! ### Invariants and whole-machine rules -/

/-- The invariant holds after reset. -/
def Obligations.ResetIsGood : Prop := State.reset.Inv

/-- Every step keeps the invariant, from every state that has it (ABORTP is 0 whenever FSM is IDLE, STATUS is a code the
block writes, ERRINFO is 0 without TransportError, the buffers keep their canonical form and capacity, the latches fit
the FSM state), and from every state it keeps the parameters (00 R7). -/
def Obligations.StepKeepsTheInvariant : Prop :=
  ∀ s t : State, step s = .next t → t.cfg = s.cfg ∧ (s.Inv → t.Inv)

/-- The BLOCK's step never gets stuck in a good state that is not IDLE, and brings the operation nearer its end
(42 R160, 43 R178, 70 R251). -/
def Obligations.BlockStepMakesProgress : Prop :=
  ∀ s : State, s.Inv → s.fsm ≠ .idle → ∃ t, s.blockStep = .next t ∧ t.fsm.rank < s.fsm.rank

/-- Every accepted operation ends in IDLE, whatever the transport answers, whatever bytes come and whenever ABORT is raised
(70 R251, R250): the events still to come are the BLOCK's, the CANCELLER's and the TRANSPORT's only (the HOST is blocked
and there is no reset), and eight steps more than there are such events are enough. With an empty agenda no other agent
acts and eight steps are enough (the agenda and its end are log 1's and log 2's). -/
def Obligations.EveryOperationReturnsToIdle : Prop :=
  ∀ s : State, s.Inv →
    (∀ e ∈ s.agenda, e = .block ∨ e = .abort ∨ (∃ bs, e = .arrive bs) ∨ ∃ bs, e = .wire bs) →
    ∃ n t, n ≤ s.agenda.length + 8 ∧ Host.Core.run Sys2Proof.core n s = .next t ∧ t.fsm = .idle

/-- LASTCMD is written by a successful build step of FBUILD or FCMD, by the last step of a successful FRECV, and by
reset, and by nothing else (10 R25). -/
def Obligations.OnlyTheseWriteLastcmd : Prop :=
  ∀ s t : State, step s = .next t → t.lastcmd ≠ s.lastcmd →
    (∃ opc rest, s.agenda = .start opc :: rest ∧ (opc = 0x20 ∨ opc = 0x21) ∧ s.fsm = .idle ∧
      s.len.toNat ≤ s.cfg.maxPayload ∧ t.lastcmd = s.cmd) ∨
    (s.fsm = .rxTrailer ∧ s.abortp = false ∧ t.lastcmd = s.lastcmd + 1 ∧ t.fsm = .idle ∧ t.status = 0x00) ∨
    (∃ rest, s.agenda = .reset :: rest ∧ t.lastcmd = s.cfg.lastcmdReset)

/-- The status pair is written at the end of an operation and by reset only: a step that changes it leaves the block in
IDLE (10 R23, R24); and the STATUS with which a BLOCK step ends an operation is one the spec lets that state raise
(60 R202 to R214, R227). -/
def Obligations.StatusIsWrittenAtTheEnd : Prop :=
  (∀ s t : State, step s = .next t → (t.status ≠ s.status ∨ t.errinfo ≠ s.errinfo) → t.fsm = .idle) ∧
  ∀ s t : State, s.fsm ≠ .idle → s.blockStep = .next t → t.fsm = .idle → t.status ∈ s.fsm.endCodes

/-- The checksum operations, CASC and DCS touch neither LASTCMD, TXBUF, TXLEN, RXBUF, the FSM nor the transport (70 R234). -/
def Obligations.ChecksumAndCascadeLeaveTheCodec : Prop :=
  ∀ (s t : State) (i : Instr), i = .crca ∨ i = .crcaApp ∨ i = .crcb ∨ i = .crcbApp ∨ i = .dcs ∨ i = .casc →
    exec i s = .next t →
    t.lastcmd = s.lastcmd ∧ t.txbuf = s.txbuf ∧ t.txlen = s.txlen ∧ t.rxbuf = s.rxbuf ∧ t.fsm = .idle ∧
      t.abortp = s.abortp ∧ t.pending = s.pending ∧ t.calls = s.calls ∧ t.answers = s.answers ∧
      t.capl = s.capl ∧ t.plen = s.plen ∧ t.rtfi = s.rtfi ∧ t.rcc = s.rcc

/-- No operation reads the receive latches: two states that differ in them only give the HOST the same view (10 R29). That
view is the registers of R34's HOST column and every byte of every buffer up to its capacity, written since reset or not
(10 R34, R30; an unwritten byte is log 17's free value). -/
def Obligations.LatchesAreHidden : Prop :=
  (∀ s : State,
    (∀ b, (s.hostView.bytes b).length = bufCapacity s.cfg b) ∧
    (∀ b a, a < bufCapacity s.cfg b → (s.hostView.bytes b)[a]? = some (s.readByte b a)) ∧
    s.hostView.len = s.len ∧ s.hostView.cmd = s.cmd ∧ s.hostView.tfi = s.tfi ∧ s.hostView.cap = s.cap ∧
    s.hostView.tmo = s.tmo ∧ s.hostView.crcr = s.crcr ∧ s.hostView.dcsr = s.dcsr ∧ s.hostView.rlen = s.rlen ∧
    s.hostView.txlen = s.txlen ∧ s.hostView.status = s.status ∧ s.hostView.errinfo = s.errinfo ∧
    s.hostView.lastcmd = s.lastcmd ∧ s.hostView.fsm = s.fsm ∧ s.hostView.abortp = s.abortp) ∧
  (∀ (s : State) (c : Half) (p r q : Byte),
    State.hostView { s with capl := c, plen := p, rtfi := r, rcc := q } = s.hostView) ∧
  ∀ (s t : State) (i : Instr) (c : Half) (p r q : Byte), isOperation i = true → exec i s = .next t →
    ∃ t', exec i { s with capl := c, plen := p, rtfi := r, rcc := q } = .next t' ∧ t'.hostView = t.hostView

/-! ### Whole exchanges -/

/-- Frame round-trip: an FRECV that meets, in its whole, a response frame with the command code plus one, a payload that
fits and a right checksum, every receive succeeding, returns that payload, and LASTCMD is then the response's code
(42 R162, S5). No other agent acts meanwhile and the four answers are given ahead (log 1, log 7). -/
def Obligations.FrameRoundTrip : Prop :=
  ∀ (s : State) (payload more : List Byte) (l0 l1 l2 l3 : Nat) (rest : List Answer), s.fsm = .idle →
    s.abortp = false → s.agenda = [.start 0x22] → payload.length ≤ 253 → payload.length ≤ s.cap.toNat →
    s.cap.toNat ≤ s.cfg.rxcap → s.pending = encode s.cfg (.nfC2H (s.lastcmd + 1) payload) ++ more →
    s.answers = ⟨[], .ok, l0⟩ :: ⟨[], .ok, l1⟩ :: ⟨[], .ok, l2⟩ :: ⟨[], .ok, l3⟩ :: rest →
    ∃ n t, n ≤ 5 ∧ Host.Core.run Sys2Proof.core n s = .next t ∧ t.fsm = .idle ∧ t.status = 0x00 ∧ t.errinfo = 0 ∧
      t.rlen.toNat = payload.length ∧ t.memRead .rxbuf 0 payload.length = payload ∧ t.lastcmd = s.lastcmd + 1 ∧
      t.pending = more

/-- Corruption is detected: the same exchange with one byte of TFI, command code, payload or DCS changed (a single flipped
bit among them) ends UnexpectedResponse for TFI and command code and ChecksumMismatch for payload and DCS, with LASTCMD
and RLEN unchanged (42 R162, S6). The FRECV has been started: the agenda is empty at the end; no other agent acts meanwhile
and the four answers are given ahead (log 1, log 7). -/
def Obligations.CorruptionIsDetected : Prop :=
  ∀ (s : State) (payload more : List Byte) (k : Nat) (v : Byte) (l0 l1 l2 l3 : Nat) (rest : List Answer),
    s.fsm = .idle → s.abortp = false → s.agenda = [.start 0x22] → payload.length ≤ 253 →
    payload.length ≤ s.cap.toNat → s.cap.toNat ≤ s.cfg.rxcap → 5 ≤ k → k < payload.length + 8 →
    (encode s.cfg (.nfC2H (s.lastcmd + 1) payload))[k]? ≠ some v →
    s.pending = (encode s.cfg (.nfC2H (s.lastcmd + 1) payload)).set k v ++ more →
    s.answers = ⟨[], .ok, l0⟩ :: ⟨[], .ok, l1⟩ :: ⟨[], .ok, l2⟩ :: ⟨[], .ok, l3⟩ :: rest →
    ∃ n t, n ≤ 5 ∧ Host.Core.run Sys2Proof.core n s = .next t ∧ t.fsm = .idle ∧ t.errinfo = 0 ∧
      (k < 7 → t.status = 0x09) ∧ (7 ≤ k → t.status = 0x04) ∧ t.lastcmd = s.lastcmd ∧ t.rlen = s.rlen ∧ t.agenda = []

/-- An abort that is pending ends the FRECV with Aborted within five BLOCK steps, whatever the transport answers, with
LASTCMD, RLEN and RXBUF as they were and the probe frame in TXBUF (43 R178, 70 R244). The agenda is empty: no other agent
acts meanwhile (log 1, log 2). -/
def Obligations.PendingAbortEndsAborted : Prop :=
  ∀ s : State, s.abortp = true →
    (s.fsm = .rxHdr ∨ s.fsm = .rxTc ∨ s.fsm = .rxPayload ∨ s.fsm = .rxTrailer) → s.agenda = [] →
    ∃ n t, n ≤ 5 ∧ Host.Core.run Sys2Proof.core n s = .next t ∧ t.fsm = .idle ∧ t.status = 0x0D ∧ t.errinfo = 0 ∧
      t.abortp = false ∧ t.lastcmd = s.lastcmd ∧ t.rlen = s.rlen ∧ t.rxbuf = s.rxbuf ∧
      t.txlen.toNat = s.cfg.probePayload.length + 9 ∧
      t.memRead .txbuf 0 (s.cfg.probePayload.length + 9) = buildFrame s.cfg.probeCmd s.cfg.probePayload

/-! ### The descriptor decoder, beside the block -/

/-- ATQA: the size class and the anticollision test, and the source's example (49 R187, R188, R195; log 19). -/
def Obligations.AtqaDecoding : Prop :=
  (∀ a : Byte,
    (Descriptor.uidClass a = .single ↔ a.toNat / 64 = 0) ∧ (Descriptor.uidClass a = .double ↔ a.toNat / 64 = 1) ∧
    (Descriptor.uidClass a = .triple ↔ a.toNat / 64 = 2) ∧ (Descriptor.uidClass a = .unknown ↔ a.toNat / 64 = 3) ∧
    (Descriptor.anticollisionSupported a = true ↔ ∃ k, k ≤ 4 ∧ a.toNat % 32 = 2 ^ k)) ∧
  Descriptor.uidClass 0x04 = .single ∧ Descriptor.anticollisionBits 0x04 = 0x04 ∧
    Descriptor.anticollisionSupported 0x04 = true ∧ Descriptor.maxFrame 8 = 256 ∧ Descriptor.maxFrame 9 = 16

/-- ATS: the bytes T0 announces are consumed in the order TA1, TB1, TC1 and the rest is historical; announced bytes that
are not there are MalformedDescriptor, which R194 marks as derived from R190, and nothing else fails (49 R190, R194;
log 19). That an ATS longer than R186's 254 bytes (253 after T0) is decoded like any other is the model's choice (log 28). -/
def Obligations.AtsLayout : Prop :=
  ∀ (t0 : Byte) (rest : List Byte) (n : Nat),
    n = (t0.getLsbD 4).toNat + (t0.getLsbD 5).toNat + (t0.getLsbD 6).toNat →
    (rest.length < n → Descriptor.decodeAts t0 rest = .error .malformedDescriptor) ∧
    (n ≤ rest.length → ∃ a, Descriptor.decodeAts t0 rest = .ok a ∧
      a.ta1.toList ++ a.tb1.toList ++ a.tc1.toList ++ a.historical = rest ∧
      a.ta1.isSome = t0.getLsbD 4 ∧ a.tb1.isSome = t0.getLsbD 5 ∧ a.tc1.isSome = t0.getLsbD 6 ∧
      a.fsci = t0.toNat % 16 ∧
      a.maxFrame = (if t0.toNat % 16 < 9 then [16, 24, 32, 40, 48, 64, 96, 128, 256].getD (t0.toNat % 16) 0 else 16))

/-- What the two decoders return: the arm of TargetDescriptor with what the card gave and every decoded quantity (49 R186).
ISO14443A: the ATS layout's failure is the only one; with `x` the decoded ATS, none without an ATS: size class,
anticollision and the SAK flags (R187 to R189), the flags of TA1, FWT and SFGI of TB1, NAD and CID of TC1, each absent with
its byte (R191), and the category of the historical bytes, absent with them (R192). ISO14443B: the flags of
`protocol_info[0]`, each by its own mask, frame size, ISO14443-4, FWT, NAD and CID (R193). UID, PUPI and the masks are
arguments (log 19, log 20), of any length (log 28). -/
def Obligations.DecodersReturnTheTarget : Prop :=
  (∀ (bs : List Byte) (p : Descriptor.FieldPlace),
    Descriptor.field bs p = bs[p.index]?.map fun b => (b &&& p.mask) >>> p.shift) ∧
  (∀ (m : Descriptor.Masks) (uid : List Byte) (a0 a1 sak : Byte) (ats : List Byte),
    (∀ t0 rest e, ats = t0 :: rest → Descriptor.decodeAts t0 rest = .error e →
      Descriptor.decodeA m uid a0 a1 sak ats = .error e) ∧
    ∀ x : Option Descriptor.Ats,
      (ats = [] ∧ x = none ∨ ∃ t0 rest a, ats = t0 :: rest ∧ Descriptor.decodeAts t0 rest = .ok a ∧ x = some a) →
      ∃ d, Descriptor.decodeA m uid a0 a1 sak ats = .ok (.iso14443a uid a0 a1 sak ats d) ∧ d.ats = x ∧
        d.uidClass = Descriptor.uidClass a1 ∧ d.anticollision.toNat = a1.toNat % 32 ∧
        d.anticollisionOk = Descriptor.anticollisionSupported a1 ∧
        d.cascadeIncomplete = (sak &&& m.sakCascade != 0) ∧ d.iso14443_4 = (sak &&& m.sakIso14443_4 != 0) ∧
        d.iso18092 = (sak &&& m.sakIso18092 != 0) ∧
        d.ta1Flags = ((x.bind (·.ta1)).map fun b =>
          ⟨b &&& m.ta1.asymmetry != 0, m.ta1.support.map fun mask => b &&& mask != 0⟩) ∧
        d.fwt = ((x.bind (·.tb1)).map fun b => 4096 * 2 ^ (b.toNat / 16)) ∧
        d.sfgi = ((x.bind (·.tb1)).map fun b => b.toNat % 16) ∧
        d.nad = ((x.bind (·.tc1)).map fun b => b &&& m.tc1Nad != 0) ∧
        d.cid = ((x.bind (·.tc1)).map fun b => b &&& m.tc1Cid != 0) ∧
        (x = none → d.category = none) ∧
        ∀ a, x = some a →
          (a.historical = [] → d.category = none) ∧
          ∀ h more, a.historical = h :: more →
            (h = 0x00 ∨ h = 0x80 ∨ h = 0x10 → d.category = some (.compactTlv h)) ∧
            (h = 0xC1 → d.category = some (.proprietaryC1 (Descriptor.field more m.chipType)
              (Descriptor.field more m.memorySize) (Descriptor.field more m.cardStatus)
              (Descriptor.field more m.generation) (Descriptor.field more m.virtualCard))) ∧
            (h ≠ 0x00 → h ≠ 0x80 → h ≠ 0x10 → h ≠ 0xC1 → d.category = some (.uninterpreted h))) ∧
  ∀ (m : Descriptor.Masks) (pupi app : List Byte) (i0 i1 i2 : Byte),
    ∃ d, Descriptor.decodeB m pupi app i0 i1 i2 = .iso14443b pupi app i0 i1 i2 d ∧
      d.rates.toCard = ⟨i0 &&& m.bRates.toCard.kbps212 != 0, i0 &&& m.bRates.toCard.kbps424 != 0,
        i0 &&& m.bRates.toCard.kbps847 != 0⟩ ∧
      d.rates.fromCard = ⟨i0 &&& m.bRates.fromCard.kbps212 != 0, i0 &&& m.bRates.fromCard.kbps424 != 0,
        i0 &&& m.bRates.fromCard.kbps847 != 0⟩ ∧
      d.rates.symmetricMandatory = (i0 &&& m.bRates.symmetricMandatory != 0) ∧
      d.maxFrame = (if i1.toNat / 16 < 9 then [16, 24, 32, 40, 48, 64, 96, 128, 256].getD (i1.toNat / 16) 0 else 16) ∧
      (d.iso14443_4 = true ↔ i1.toNat % 2 = 1) ∧ d.fwt = 4096 * 2 ^ (i2.toNat / 16) ∧
      d.nad = (i2 &&& m.bNad != 0) ∧ d.cid = (i2 &&& m.bCid != 0)
end

