-- ==== Sys2Proof/Laws/Codec.lean ====
section
/-! SUPPORT. The checksum bytes, the normal frame, the decoder's parts and the classifiers: one lemma per function. -/

namespace Sys2Proof

/-! ### Sums and checksums -/

theorem byteSum_append (a b : List Byte) : byteSum (a ++ b) = byteSum a + byteSum b := by
  induction a with
  | nil => simp [byteSum]
  | cons x a ih => simp [byteSum, ih]; omega

/-- The data checksum is the mathematical residue of its formula (40 R108). -/
theorem dcs_toInt (tfi cmd : Byte) (p : List Byte) :
    ((dcs tfi cmd p).toNat : Int) = (0x100 - (tfi.toNat : Int) - cmd.toNat - byteSum p) % 256 := by
  unfold dcs
  rw [BitVec.toNat_ofInt]
  omega

/-- The length checksum is the residue of its formula (30 R73). -/
theorem lcs_toInt (len : Byte) : ((lcs len).toNat : Int) = (0x100 - (len.toNat : Int)) % 256 := by
  unfold lcs
  rw [BitVec.toNat_ofInt]
  omega

theorem lcs_toNat (len : Byte) : (lcs len).toNat = (0x100 - len.toNat) % 256 := by
  have := lcs_toInt len
  have := len.isLt
  omega

/-- The length checksum makes the sum zero, as naturals and as bytes. -/
theorem len_add_lcs (len : Byte) : (len.toNat + (lcs len).toNat) % 256 = 0 := by
  have := lcs_toInt len
  omega

theorem add_eq_zero_iff (a b : Byte) : a + b = 0 ↔ (a.toNat + b.toNat) % 256 = 0 := by
  constructor
  · intro h; have := congrArg BitVec.toNat h; simpa using this
  · intro h; apply BitVec.eq_of_toNat_eq; simpa using h

/-- Two payloads with the same data checksum have the same sum modulo 256. -/
theorem byteSum_of_dcs_eq {tfi cmd : Byte} {p q : List Byte} (h : dcs tfi cmd p = dcs tfi cmd q) :
    byteSum p % 256 = byteSum q % 256 := by
  have hp := dcs_toInt tfi cmd p
  have hq := dcs_toInt tfi cmd q
  rw [h] at hp
  omega

theorem byteSum_set : ∀ (p : List Byte) (k : Nat) (v w : Byte), p[k]? = some w →
    byteSum (p.set k v) + w.toNat = byteSum p + v.toNat
  | [], _, _, _, h => by simp at h
  | b :: p, 0, v, w, h => by simp at h; subst h; simp [byteSum]; omega
  | b :: p, k + 1, v, w, h => by
    have := byteSum_set p k v w (by simpa using h)
    simp [byteSum]; omega

/-- Changing one payload byte changes the data checksum (42 R162). -/
theorem dcs_set_ne {tfi cmd : Byte} {p : List Byte} {k : Nat} {v w : Byte} (hw : p[k]? = some w) (hv : w ≠ v) :
    dcs tfi cmd (p.set k v) ≠ dcs tfi cmd p := by
  intro h
  have h1 := byteSum_of_dcs_eq h
  have h2 := byteSum_set p k v w hw
  apply hv
  apply BitVec.eq_of_toNat_eq
  have := v.isLt
  have := w.isLt
  omega

/-! ### The normal frame -/

theorem normalFrame_eq (tfi cc : Byte) (p : List Byte) :
    normalFrame tfi cc p = 0x00 :: 0x00 :: 0xFF :: lenByte p :: lcs (lenByte p) :: tfi :: cc ::
      (p ++ [dcs tfi cc p, 0x00]) := by
  simp [normalFrame, preamble, postamble]

@[simp] theorem normalFrame_length (tfi cc : Byte) (p : List Byte) : (normalFrame tfi cc p).length = p.length + 9 := by
  simp [normalFrame_eq]

@[simp] theorem buildFrame_length (cc : Byte) (p : List Byte) : (buildFrame cc p).length = p.length + 9 :=
  normalFrame_length _ _ _

theorem lenByte_toNat {p : List Byte} (h : p.length ≤ 253) : (lenByte p).toNat = p.length + 2 := by
  simp [lenByte]; omega

/-! ### The decoder's parts -/

theorem decodeNormal_frame {tfi cc len : Byte} {p : List Byte} (mk : Byte → List Byte → Instr)
    (hl : len.toNat = p.length + 2) :
    decodeNormal tfi mk len (tfi :: cc :: (p ++ [dcs tfi cc p, 0x00])) = .ok (mk cc p) := by
  simp [decodeNormal, hl, postamble]

theorem decodeNormal_inv {tfi len : Byte} {mk : Byte → List Byte → Instr} {rest : List Byte} {i : Instr}
    (hl : 2 ≤ len.toNat) (h : decodeNormal tfi mk len rest = .ok i) :
    ∃ cc p, i = mk cc p ∧ len.toNat = p.length + 2 ∧ rest = tfi :: cc :: (p ++ [dcs tfi cc p, 0x00]) := by
  unfold decodeNormal at h
  split at h
  · rename_i t cc body
    split at h
    · rename_i d post hdrop
      split at h
      · cases h
      · split at h
        · cases h
        · split at h
          · cases h
          · rename_i ht hd hp
            simp only [ne_eq, Classical.not_not] at ht hd hp
            subst ht hd hp
            refine ⟨cc, body.take (len.toNat - 2), by cases h; rfl, ?_, ?_⟩
            · have := congrArg List.length hdrop
              simp at this
              simp; omega
            · have e := (List.take_append_drop (len.toNat - 2) body).symm
              rw [hdrop] at e
              exact congrArg (fun x => t :: cc :: x) e
    · cases h
  · cases h

theorem decodeOp_inv {opc : Byte} {i : Instr} (h : decodeOp opc = .ok i) : (opc, i) ∈ opTable := by
  unfold decodeOp at h
  split at h
  · rename_i j hj
    cases h
    obtain ⟨l1, l2, h1, -⟩ := List.lookup_eq_some_iff.mp hj
    rw [h1]; simp
  · cases h

end Sys2Proof

namespace Sys2Proof.Machine

/-! ### The classifiers -/

theorem ackClassify_ack {c : Params} {bs : List Byte} : ackClassify c bs = .ack ↔ bs = c.ackFrame := by
  unfold ackClassify
  split
  · simpa
  · split <;> simpa

theorem ack_ne_err (c : Params) : c.ackFrame ≠ c.errFrame := by
  have := c.ack_differs_err
  simpa using this

theorem ackClassify_err {c : Params} {bs : List Byte} : ackClassify c bs = .err ↔ bs = c.errFrame := by
  unfold ackClassify
  split
  · rename_i h; simp [h, ack_ne_err]
  · split <;> simpa

@[simp] theorem ackClassify_ackFrame (c : Params) : ackClassify c c.ackFrame = .ack := ackClassify_ack.mpr rfl

@[simp] theorem ackClassify_errFrame (c : Params) : ackClassify c c.errFrame = .err := ackClassify_err.mpr rfl

theorem classifyHeader_normal {p : List Byte} (h : p.length ≤ 253) :
    classifyHeader [0x00, 0x00, 0xFF, lenByte p, lcs (lenByte p)] = .normal (lenByte p) := by
  have h1 := lenByte_toNat h
  have h2 := lcs_toNat (lenByte p)
  have e1 : ¬ (lenByte p = 0x01 ∧ lcs (lenByte p) = 0xFF) := by
    rintro ⟨e, -⟩; have := congrArg BitVec.toNat e; simp at this; omega
  have e2 : ¬ (lenByte p = 0xFF ∧ lcs (lenByte p) = 0xFF) := by
    rintro ⟨e, e'⟩
    have := congrArg BitVec.toNat e
    have := congrArg BitVec.toNat e'
    simp at *; omega
  have e3 : ¬ (lenByte p).toNat < 2 := by omega
  simp only [classifyHeader, if_neg e1, if_neg e2, len_add_lcs, if_neg e3]
  simp [preamble]

end Sys2Proof.Machine
end

