-- ==== Sys2Proof/Laws/State.lean ====
section
/-! SUPPORT. One lemma per field per update of State, so that no later proof unfolds a record update. -/

namespace Sys2Proof.Machine.State

/-! ### Replacing a buffer -/

@[simp] theorem setBuf_cfg (s : State) (b : Buf) (m : Memory) : (s.setBuf b m).cfg = s.cfg := by cases b <;> rfl
@[simp] theorem setBuf_len (s : State) (b : Buf) (m : Memory) : (s.setBuf b m).len = s.len := by cases b <;> rfl
@[simp] theorem setBuf_cmd (s : State) (b : Buf) (m : Memory) : (s.setBuf b m).cmd = s.cmd := by cases b <;> rfl
@[simp] theorem setBuf_tfi (s : State) (b : Buf) (m : Memory) : (s.setBuf b m).tfi = s.tfi := by cases b <;> rfl
@[simp] theorem setBuf_cap (s : State) (b : Buf) (m : Memory) : (s.setBuf b m).cap = s.cap := by cases b <;> rfl
@[simp] theorem setBuf_tmo (s : State) (b : Buf) (m : Memory) : (s.setBuf b m).tmo = s.tmo := by cases b <;> rfl
@[simp] theorem setBuf_crcr (s : State) (b : Buf) (m : Memory) : (s.setBuf b m).crcr = s.crcr := by cases b <;> rfl
@[simp] theorem setBuf_dcsr (s : State) (b : Buf) (m : Memory) : (s.setBuf b m).dcsr = s.dcsr := by cases b <;> rfl
@[simp] theorem setBuf_rlen (s : State) (b : Buf) (m : Memory) : (s.setBuf b m).rlen = s.rlen := by cases b <;> rfl
@[simp] theorem setBuf_txlen (s : State) (b : Buf) (m : Memory) : (s.setBuf b m).txlen = s.txlen := by cases b <;> rfl
@[simp] theorem setBuf_status (s : State) (b : Buf) (m : Memory) :
    (s.setBuf b m).status = s.status := by cases b <;> rfl
@[simp] theorem setBuf_errinfo (s : State) (b : Buf) (m : Memory) :
    (s.setBuf b m).errinfo = s.errinfo := by cases b <;> rfl
@[simp] theorem setBuf_lastcmd (s : State) (b : Buf) (m : Memory) :
    (s.setBuf b m).lastcmd = s.lastcmd := by cases b <;> rfl
@[simp] theorem setBuf_fsm (s : State) (b : Buf) (m : Memory) : (s.setBuf b m).fsm = s.fsm := by cases b <;> rfl
@[simp] theorem setBuf_abortp (s : State) (b : Buf) (m : Memory) :
    (s.setBuf b m).abortp = s.abortp := by cases b <;> rfl
@[simp] theorem setBuf_capl (s : State) (b : Buf) (m : Memory) : (s.setBuf b m).capl = s.capl := by cases b <;> rfl
@[simp] theorem setBuf_plen (s : State) (b : Buf) (m : Memory) : (s.setBuf b m).plen = s.plen := by cases b <;> rfl
@[simp] theorem setBuf_rtfi (s : State) (b : Buf) (m : Memory) : (s.setBuf b m).rtfi = s.rtfi := by cases b <;> rfl
@[simp] theorem setBuf_rcc (s : State) (b : Buf) (m : Memory) : (s.setBuf b m).rcc = s.rcc := by cases b <;> rfl
@[simp] theorem setBuf_pending (s : State) (b : Buf) (m : Memory) :
    (s.setBuf b m).pending = s.pending := by cases b <;> rfl
@[simp] theorem setBuf_answers (s : State) (b : Buf) (m : Memory) :
    (s.setBuf b m).answers = s.answers := by cases b <;> rfl
@[simp] theorem setBuf_calls (s : State) (b : Buf) (m : Memory) : (s.setBuf b m).calls = s.calls := by cases b <;> rfl
@[simp] theorem setBuf_agenda (s : State) (b : Buf) (m : Memory) :
    (s.setBuf b m).agenda = s.agenda := by cases b <;> rfl
@[simp] theorem setBuf_epoch (s : State) (b : Buf) (m : Memory) : (s.setBuf b m).epoch = s.epoch := by cases b <;> rfl
@[simp] theorem setBuf_draws (s : State) (b : Buf) (m : Memory) : (s.setBuf b m).draws = s.draws := by cases b <;> rfl
@[simp] theorem setBuf_dbuf_dbuf (s : State) (m : Memory) : (s.setBuf .dbuf m).dbuf = m := rfl
@[simp] theorem setBuf_pbuf_pbuf (s : State) (m : Memory) : (s.setBuf .pbuf m).pbuf = m := rfl
@[simp] theorem setBuf_uidbuf_uidbuf (s : State) (m : Memory) : (s.setBuf .uidbuf m).uidbuf = m := rfl
@[simp] theorem setBuf_cascbuf_cascbuf (s : State) (m : Memory) : (s.setBuf .cascbuf m).cascbuf = m := rfl
@[simp] theorem setBuf_txbuf_txbuf (s : State) (m : Memory) : (s.setBuf .txbuf m).txbuf = m := rfl
@[simp] theorem setBuf_rxbuf_rxbuf (s : State) (m : Memory) : (s.setBuf .rxbuf m).rxbuf = m := rfl

/-! ### Writing bytes -/

@[simp] theorem memWrite_cfg (s : State) (b : Buf) (i : Nat) (vs : List Byte) :
    (s.memWrite b i vs).cfg = s.cfg := by cases b <;> rfl
@[simp] theorem memWrite_len (s : State) (b : Buf) (i : Nat) (vs : List Byte) :
    (s.memWrite b i vs).len = s.len := by cases b <;> rfl
@[simp] theorem memWrite_cmd (s : State) (b : Buf) (i : Nat) (vs : List Byte) :
    (s.memWrite b i vs).cmd = s.cmd := by cases b <;> rfl
@[simp] theorem memWrite_tfi (s : State) (b : Buf) (i : Nat) (vs : List Byte) :
    (s.memWrite b i vs).tfi = s.tfi := by cases b <;> rfl
@[simp] theorem memWrite_cap (s : State) (b : Buf) (i : Nat) (vs : List Byte) :
    (s.memWrite b i vs).cap = s.cap := by cases b <;> rfl
@[simp] theorem memWrite_tmo (s : State) (b : Buf) (i : Nat) (vs : List Byte) :
    (s.memWrite b i vs).tmo = s.tmo := by cases b <;> rfl
@[simp] theorem memWrite_crcr (s : State) (b : Buf) (i : Nat) (vs : List Byte) :
    (s.memWrite b i vs).crcr = s.crcr := by cases b <;> rfl
@[simp] theorem memWrite_dcsr (s : State) (b : Buf) (i : Nat) (vs : List Byte) :
    (s.memWrite b i vs).dcsr = s.dcsr := by cases b <;> rfl
@[simp] theorem memWrite_rlen (s : State) (b : Buf) (i : Nat) (vs : List Byte) :
    (s.memWrite b i vs).rlen = s.rlen := by cases b <;> rfl
@[simp] theorem memWrite_txlen (s : State) (b : Buf) (i : Nat) (vs : List Byte) :
    (s.memWrite b i vs).txlen = s.txlen := by cases b <;> rfl
@[simp] theorem memWrite_status (s : State) (b : Buf) (i : Nat) (vs : List Byte) :
    (s.memWrite b i vs).status = s.status := by cases b <;> rfl
@[simp] theorem memWrite_errinfo (s : State) (b : Buf) (i : Nat) (vs : List Byte) :
    (s.memWrite b i vs).errinfo = s.errinfo := by cases b <;> rfl
@[simp] theorem memWrite_lastcmd (s : State) (b : Buf) (i : Nat) (vs : List Byte) :
    (s.memWrite b i vs).lastcmd = s.lastcmd := by cases b <;> rfl
@[simp] theorem memWrite_fsm (s : State) (b : Buf) (i : Nat) (vs : List Byte) :
    (s.memWrite b i vs).fsm = s.fsm := by cases b <;> rfl
@[simp] theorem memWrite_abortp (s : State) (b : Buf) (i : Nat) (vs : List Byte) :
    (s.memWrite b i vs).abortp = s.abortp := by cases b <;> rfl
@[simp] theorem memWrite_capl (s : State) (b : Buf) (i : Nat) (vs : List Byte) :
    (s.memWrite b i vs).capl = s.capl := by cases b <;> rfl
@[simp] theorem memWrite_plen (s : State) (b : Buf) (i : Nat) (vs : List Byte) :
    (s.memWrite b i vs).plen = s.plen := by cases b <;> rfl
@[simp] theorem memWrite_rtfi (s : State) (b : Buf) (i : Nat) (vs : List Byte) :
    (s.memWrite b i vs).rtfi = s.rtfi := by cases b <;> rfl
@[simp] theorem memWrite_rcc (s : State) (b : Buf) (i : Nat) (vs : List Byte) :
    (s.memWrite b i vs).rcc = s.rcc := by cases b <;> rfl
@[simp] theorem memWrite_pending (s : State) (b : Buf) (i : Nat) (vs : List Byte) :
    (s.memWrite b i vs).pending = s.pending := by cases b <;> rfl
@[simp] theorem memWrite_answers (s : State) (b : Buf) (i : Nat) (vs : List Byte) :
    (s.memWrite b i vs).answers = s.answers := by cases b <;> rfl
@[simp] theorem memWrite_calls (s : State) (b : Buf) (i : Nat) (vs : List Byte) :
    (s.memWrite b i vs).calls = s.calls := by cases b <;> rfl
@[simp] theorem memWrite_agenda (s : State) (b : Buf) (i : Nat) (vs : List Byte) :
    (s.memWrite b i vs).agenda = s.agenda := by cases b <;> rfl
@[simp] theorem memWrite_epoch (s : State) (b : Buf) (i : Nat) (vs : List Byte) :
    (s.memWrite b i vs).epoch = s.epoch := by cases b <;> rfl
@[simp] theorem memWrite_draws (s : State) (b : Buf) (i : Nat) (vs : List Byte) :
    (s.memWrite b i vs).draws = s.draws := by cases b <;> rfl

/-! ### done -/

@[simp] theorem done_cfg (s : State) : (s.done).cfg = s.cfg := rfl
@[simp] theorem done_len (s : State) : (s.done).len = s.len := rfl
@[simp] theorem done_cmd (s : State) : (s.done).cmd = s.cmd := rfl
@[simp] theorem done_tfi (s : State) : (s.done).tfi = s.tfi := rfl
@[simp] theorem done_cap (s : State) : (s.done).cap = s.cap := rfl
@[simp] theorem done_tmo (s : State) : (s.done).tmo = s.tmo := rfl
@[simp] theorem done_crcr (s : State) : (s.done).crcr = s.crcr := rfl
@[simp] theorem done_dcsr (s : State) : (s.done).dcsr = s.dcsr := rfl
@[simp] theorem done_rlen (s : State) : (s.done).rlen = s.rlen := rfl
@[simp] theorem done_txlen (s : State) : (s.done).txlen = s.txlen := rfl
@[simp] theorem done_status (s : State) : (s.done).status = statusOk := rfl
@[simp] theorem done_errinfo (s : State) : (s.done).errinfo = 0 := rfl
@[simp] theorem done_lastcmd (s : State) : (s.done).lastcmd = s.lastcmd := rfl
@[simp] theorem done_fsm (s : State) : (s.done).fsm = .idle := rfl
@[simp] theorem done_abortp (s : State) : (s.done).abortp = s.abortp := rfl
@[simp] theorem done_capl (s : State) : (s.done).capl = s.capl := rfl
@[simp] theorem done_plen (s : State) : (s.done).plen = s.plen := rfl
@[simp] theorem done_rtfi (s : State) : (s.done).rtfi = s.rtfi := rfl
@[simp] theorem done_rcc (s : State) : (s.done).rcc = s.rcc := rfl
@[simp] theorem done_dbuf (s : State) : (s.done).dbuf = s.dbuf := rfl
@[simp] theorem done_pbuf (s : State) : (s.done).pbuf = s.pbuf := rfl
@[simp] theorem done_uidbuf (s : State) : (s.done).uidbuf = s.uidbuf := rfl
@[simp] theorem done_cascbuf (s : State) : (s.done).cascbuf = s.cascbuf := rfl
@[simp] theorem done_txbuf (s : State) : (s.done).txbuf = s.txbuf := rfl
@[simp] theorem done_rxbuf (s : State) : (s.done).rxbuf = s.rxbuf := rfl
@[simp] theorem done_pending (s : State) : (s.done).pending = s.pending := rfl
@[simp] theorem done_answers (s : State) : (s.done).answers = s.answers := rfl
@[simp] theorem done_calls (s : State) : (s.done).calls = s.calls := rfl
@[simp] theorem done_agenda (s : State) : (s.done).agenda = s.agenda := rfl
@[simp] theorem done_epoch (s : State) : (s.done).epoch = s.epoch := rfl
@[simp] theorem done_draws (s : State) : (s.done).draws = s.draws := rfl

/-! ### done(n) -/

@[simp] theorem doneLen_cfg (s : State) (n : Half) : (s.doneLen n).cfg = s.cfg := rfl
@[simp] theorem doneLen_len (s : State) (n : Half) : (s.doneLen n).len = s.len := rfl
@[simp] theorem doneLen_cmd (s : State) (n : Half) : (s.doneLen n).cmd = s.cmd := rfl
@[simp] theorem doneLen_tfi (s : State) (n : Half) : (s.doneLen n).tfi = s.tfi := rfl
@[simp] theorem doneLen_cap (s : State) (n : Half) : (s.doneLen n).cap = s.cap := rfl
@[simp] theorem doneLen_tmo (s : State) (n : Half) : (s.doneLen n).tmo = s.tmo := rfl
@[simp] theorem doneLen_crcr (s : State) (n : Half) : (s.doneLen n).crcr = s.crcr := rfl
@[simp] theorem doneLen_dcsr (s : State) (n : Half) : (s.doneLen n).dcsr = s.dcsr := rfl
@[simp] theorem doneLen_rlen (s : State) (n : Half) : (s.doneLen n).rlen = n := rfl
@[simp] theorem doneLen_txlen (s : State) (n : Half) : (s.doneLen n).txlen = s.txlen := rfl
@[simp] theorem doneLen_status (s : State) (n : Half) : (s.doneLen n).status = statusOk := rfl
@[simp] theorem doneLen_errinfo (s : State) (n : Half) : (s.doneLen n).errinfo = 0 := rfl
@[simp] theorem doneLen_lastcmd (s : State) (n : Half) : (s.doneLen n).lastcmd = s.lastcmd := rfl
@[simp] theorem doneLen_fsm (s : State) (n : Half) : (s.doneLen n).fsm = .idle := rfl
@[simp] theorem doneLen_abortp (s : State) (n : Half) : (s.doneLen n).abortp = s.abortp := rfl
@[simp] theorem doneLen_capl (s : State) (n : Half) : (s.doneLen n).capl = s.capl := rfl
@[simp] theorem doneLen_plen (s : State) (n : Half) : (s.doneLen n).plen = s.plen := rfl
@[simp] theorem doneLen_rtfi (s : State) (n : Half) : (s.doneLen n).rtfi = s.rtfi := rfl
@[simp] theorem doneLen_rcc (s : State) (n : Half) : (s.doneLen n).rcc = s.rcc := rfl
@[simp] theorem doneLen_dbuf (s : State) (n : Half) : (s.doneLen n).dbuf = s.dbuf := rfl
@[simp] theorem doneLen_pbuf (s : State) (n : Half) : (s.doneLen n).pbuf = s.pbuf := rfl
@[simp] theorem doneLen_uidbuf (s : State) (n : Half) : (s.doneLen n).uidbuf = s.uidbuf := rfl
@[simp] theorem doneLen_cascbuf (s : State) (n : Half) : (s.doneLen n).cascbuf = s.cascbuf := rfl
@[simp] theorem doneLen_txbuf (s : State) (n : Half) : (s.doneLen n).txbuf = s.txbuf := rfl
@[simp] theorem doneLen_rxbuf (s : State) (n : Half) : (s.doneLen n).rxbuf = s.rxbuf := rfl
@[simp] theorem doneLen_pending (s : State) (n : Half) : (s.doneLen n).pending = s.pending := rfl
@[simp] theorem doneLen_answers (s : State) (n : Half) : (s.doneLen n).answers = s.answers := rfl
@[simp] theorem doneLen_calls (s : State) (n : Half) : (s.doneLen n).calls = s.calls := rfl
@[simp] theorem doneLen_agenda (s : State) (n : Half) : (s.doneLen n).agenda = s.agenda := rfl
@[simp] theorem doneLen_epoch (s : State) (n : Half) : (s.doneLen n).epoch = s.epoch := rfl
@[simp] theorem doneLen_draws (s : State) (n : Half) : (s.doneLen n).draws = s.draws := rfl

/-! ### raise -/

@[simp] theorem raise_cfg (s : State) (e : ErrKind) (info : Word) : (s.raise e info).cfg = s.cfg := rfl
@[simp] theorem raise_len (s : State) (e : ErrKind) (info : Word) : (s.raise e info).len = s.len := rfl
@[simp] theorem raise_cmd (s : State) (e : ErrKind) (info : Word) : (s.raise e info).cmd = s.cmd := rfl
@[simp] theorem raise_tfi (s : State) (e : ErrKind) (info : Word) : (s.raise e info).tfi = s.tfi := rfl
@[simp] theorem raise_cap (s : State) (e : ErrKind) (info : Word) : (s.raise e info).cap = s.cap := rfl
@[simp] theorem raise_tmo (s : State) (e : ErrKind) (info : Word) : (s.raise e info).tmo = s.tmo := rfl
@[simp] theorem raise_crcr (s : State) (e : ErrKind) (info : Word) : (s.raise e info).crcr = s.crcr := rfl
@[simp] theorem raise_dcsr (s : State) (e : ErrKind) (info : Word) : (s.raise e info).dcsr = s.dcsr := rfl
@[simp] theorem raise_rlen (s : State) (e : ErrKind) (info : Word) : (s.raise e info).rlen = s.rlen := rfl
@[simp] theorem raise_txlen (s : State) (e : ErrKind) (info : Word) : (s.raise e info).txlen = s.txlen := rfl
@[simp] theorem raise_status (s : State) (e : ErrKind) (info : Word) : (s.raise e info).status = e.code := rfl
@[simp] theorem raise_errinfo (s : State) (e : ErrKind) (info : Word) : (s.raise e info).errinfo = info := rfl
@[simp] theorem raise_lastcmd (s : State) (e : ErrKind) (info : Word) : (s.raise e info).lastcmd = s.lastcmd := rfl
@[simp] theorem raise_fsm (s : State) (e : ErrKind) (info : Word) : (s.raise e info).fsm = .idle := rfl
@[simp] theorem raise_abortp (s : State) (e : ErrKind) (info : Word) : (s.raise e info).abortp = s.abortp := rfl
@[simp] theorem raise_capl (s : State) (e : ErrKind) (info : Word) : (s.raise e info).capl = s.capl := rfl
@[simp] theorem raise_plen (s : State) (e : ErrKind) (info : Word) : (s.raise e info).plen = s.plen := rfl
@[simp] theorem raise_rtfi (s : State) (e : ErrKind) (info : Word) : (s.raise e info).rtfi = s.rtfi := rfl
@[simp] theorem raise_rcc (s : State) (e : ErrKind) (info : Word) : (s.raise e info).rcc = s.rcc := rfl
@[simp] theorem raise_dbuf (s : State) (e : ErrKind) (info : Word) : (s.raise e info).dbuf = s.dbuf := rfl
@[simp] theorem raise_pbuf (s : State) (e : ErrKind) (info : Word) : (s.raise e info).pbuf = s.pbuf := rfl
@[simp] theorem raise_uidbuf (s : State) (e : ErrKind) (info : Word) : (s.raise e info).uidbuf = s.uidbuf := rfl
@[simp] theorem raise_cascbuf (s : State) (e : ErrKind) (info : Word) : (s.raise e info).cascbuf = s.cascbuf := rfl
@[simp] theorem raise_txbuf (s : State) (e : ErrKind) (info : Word) : (s.raise e info).txbuf = s.txbuf := rfl
@[simp] theorem raise_rxbuf (s : State) (e : ErrKind) (info : Word) : (s.raise e info).rxbuf = s.rxbuf := rfl
@[simp] theorem raise_pending (s : State) (e : ErrKind) (info : Word) : (s.raise e info).pending = s.pending := rfl
@[simp] theorem raise_answers (s : State) (e : ErrKind) (info : Word) : (s.raise e info).answers = s.answers := rfl
@[simp] theorem raise_calls (s : State) (e : ErrKind) (info : Word) : (s.raise e info).calls = s.calls := rfl
@[simp] theorem raise_agenda (s : State) (e : ErrKind) (info : Word) : (s.raise e info).agenda = s.agenda := rfl
@[simp] theorem raise_epoch (s : State) (e : ErrKind) (info : Word) : (s.raise e info).epoch = s.epoch := rfl
@[simp] theorem raise_draws (s : State) (e : ErrKind) (info : Word) : (s.raise e info).draws = s.draws := rfl

/-! ### The transport's failure -/

@[simp] theorem raiseFail_cfg (s : State) (e : TransportFail) : (s.raiseFail e).cfg = s.cfg := by cases e <;> rfl
@[simp] theorem raiseFail_len (s : State) (e : TransportFail) : (s.raiseFail e).len = s.len := by cases e <;> rfl
@[simp] theorem raiseFail_cmd (s : State) (e : TransportFail) : (s.raiseFail e).cmd = s.cmd := by cases e <;> rfl
@[simp] theorem raiseFail_tfi (s : State) (e : TransportFail) : (s.raiseFail e).tfi = s.tfi := by cases e <;> rfl
@[simp] theorem raiseFail_cap (s : State) (e : TransportFail) : (s.raiseFail e).cap = s.cap := by cases e <;> rfl
@[simp] theorem raiseFail_tmo (s : State) (e : TransportFail) : (s.raiseFail e).tmo = s.tmo := by cases e <;> rfl
@[simp] theorem raiseFail_crcr (s : State) (e : TransportFail) : (s.raiseFail e).crcr = s.crcr := by cases e <;> rfl
@[simp] theorem raiseFail_dcsr (s : State) (e : TransportFail) : (s.raiseFail e).dcsr = s.dcsr := by cases e <;> rfl
@[simp] theorem raiseFail_rlen (s : State) (e : TransportFail) : (s.raiseFail e).rlen = s.rlen := by cases e <;> rfl
@[simp] theorem raiseFail_txlen (s : State) (e : TransportFail) :
    (s.raiseFail e).txlen = s.txlen := by cases e <;> rfl
@[simp] theorem raiseFail_lastcmd (s : State) (e : TransportFail) :
    (s.raiseFail e).lastcmd = s.lastcmd := by cases e <;> rfl
@[simp] theorem raiseFail_fsm (s : State) (e : TransportFail) : (s.raiseFail e).fsm = .idle := by cases e <;> rfl
@[simp] theorem raiseFail_abortp (s : State) (e : TransportFail) :
    (s.raiseFail e).abortp = s.abortp := by cases e <;> rfl
@[simp] theorem raiseFail_capl (s : State) (e : TransportFail) : (s.raiseFail e).capl = s.capl := by cases e <;> rfl
@[simp] theorem raiseFail_plen (s : State) (e : TransportFail) : (s.raiseFail e).plen = s.plen := by cases e <;> rfl
@[simp] theorem raiseFail_rtfi (s : State) (e : TransportFail) : (s.raiseFail e).rtfi = s.rtfi := by cases e <;> rfl
@[simp] theorem raiseFail_rcc (s : State) (e : TransportFail) : (s.raiseFail e).rcc = s.rcc := by cases e <;> rfl
@[simp] theorem raiseFail_dbuf (s : State) (e : TransportFail) : (s.raiseFail e).dbuf = s.dbuf := by cases e <;> rfl
@[simp] theorem raiseFail_pbuf (s : State) (e : TransportFail) : (s.raiseFail e).pbuf = s.pbuf := by cases e <;> rfl
@[simp] theorem raiseFail_uidbuf (s : State) (e : TransportFail) :
    (s.raiseFail e).uidbuf = s.uidbuf := by cases e <;> rfl
@[simp] theorem raiseFail_cascbuf (s : State) (e : TransportFail) :
    (s.raiseFail e).cascbuf = s.cascbuf := by cases e <;> rfl
@[simp] theorem raiseFail_txbuf (s : State) (e : TransportFail) :
    (s.raiseFail e).txbuf = s.txbuf := by cases e <;> rfl
@[simp] theorem raiseFail_rxbuf (s : State) (e : TransportFail) :
    (s.raiseFail e).rxbuf = s.rxbuf := by cases e <;> rfl
@[simp] theorem raiseFail_pending (s : State) (e : TransportFail) :
    (s.raiseFail e).pending = s.pending := by cases e <;> rfl
@[simp] theorem raiseFail_answers (s : State) (e : TransportFail) :
    (s.raiseFail e).answers = s.answers := by cases e <;> rfl
@[simp] theorem raiseFail_calls (s : State) (e : TransportFail) :
    (s.raiseFail e).calls = s.calls := by cases e <;> rfl
@[simp] theorem raiseFail_agenda (s : State) (e : TransportFail) :
    (s.raiseFail e).agenda = s.agenda := by cases e <;> rfl
@[simp] theorem raiseFail_epoch (s : State) (e : TransportFail) :
    (s.raiseFail e).epoch = s.epoch := by cases e <;> rfl
@[simp] theorem raiseFail_draws (s : State) (e : TransportFail) :
    (s.raiseFail e).draws = s.draws := by cases e <;> rfl

/-! ### Taking the abort -/

@[simp] theorem takeAbort_cfg (s : State) : (s.takeAbort).cfg = s.cfg := rfl
@[simp] theorem takeAbort_len (s : State) : (s.takeAbort).len = s.len := rfl
@[simp] theorem takeAbort_cmd (s : State) : (s.takeAbort).cmd = s.cmd := rfl
@[simp] theorem takeAbort_tfi (s : State) : (s.takeAbort).tfi = s.tfi := rfl
@[simp] theorem takeAbort_cap (s : State) : (s.takeAbort).cap = s.cap := rfl
@[simp] theorem takeAbort_tmo (s : State) : (s.takeAbort).tmo = s.tmo := rfl
@[simp] theorem takeAbort_crcr (s : State) : (s.takeAbort).crcr = s.crcr := rfl
@[simp] theorem takeAbort_dcsr (s : State) : (s.takeAbort).dcsr = s.dcsr := rfl
@[simp] theorem takeAbort_rlen (s : State) : (s.takeAbort).rlen = s.rlen := rfl
@[simp] theorem takeAbort_txlen (s : State) : (s.takeAbort).txlen = s.txlen := rfl
@[simp] theorem takeAbort_status (s : State) : (s.takeAbort).status = s.status := rfl
@[simp] theorem takeAbort_errinfo (s : State) : (s.takeAbort).errinfo = s.errinfo := rfl
@[simp] theorem takeAbort_lastcmd (s : State) : (s.takeAbort).lastcmd = s.lastcmd := rfl
@[simp] theorem takeAbort_fsm (s : State) : (s.takeAbort).fsm = .rsWake := rfl
@[simp] theorem takeAbort_abortp (s : State) : (s.takeAbort).abortp = false := rfl
@[simp] theorem takeAbort_capl (s : State) : (s.takeAbort).capl = s.capl := rfl
@[simp] theorem takeAbort_plen (s : State) : (s.takeAbort).plen = s.plen := rfl
@[simp] theorem takeAbort_rtfi (s : State) : (s.takeAbort).rtfi = s.rtfi := rfl
@[simp] theorem takeAbort_rcc (s : State) : (s.takeAbort).rcc = s.rcc := rfl
@[simp] theorem takeAbort_dbuf (s : State) : (s.takeAbort).dbuf = s.dbuf := rfl
@[simp] theorem takeAbort_pbuf (s : State) : (s.takeAbort).pbuf = s.pbuf := rfl
@[simp] theorem takeAbort_uidbuf (s : State) : (s.takeAbort).uidbuf = s.uidbuf := rfl
@[simp] theorem takeAbort_cascbuf (s : State) : (s.takeAbort).cascbuf = s.cascbuf := rfl
@[simp] theorem takeAbort_txbuf (s : State) : (s.takeAbort).txbuf = s.txbuf := rfl
@[simp] theorem takeAbort_rxbuf (s : State) : (s.takeAbort).rxbuf = s.rxbuf := rfl
@[simp] theorem takeAbort_pending (s : State) : (s.takeAbort).pending = s.pending := rfl
@[simp] theorem takeAbort_answers (s : State) : (s.takeAbort).answers = s.answers := rfl
@[simp] theorem takeAbort_calls (s : State) : (s.takeAbort).calls = s.calls := rfl
@[simp] theorem takeAbort_agenda (s : State) : (s.takeAbort).agenda = s.agenda := rfl
@[simp] theorem takeAbort_epoch (s : State) : (s.takeAbort).epoch = s.epoch := rfl
@[simp] theorem takeAbort_draws (s : State) : (s.takeAbort).draws = s.draws := rfl

/-! ### Arriving bytes -/

@[simp] theorem arrive_cfg (s : State) (bs : List Byte) : (s.arrive bs).cfg = s.cfg := rfl
@[simp] theorem arrive_len (s : State) (bs : List Byte) : (s.arrive bs).len = s.len := rfl
@[simp] theorem arrive_cmd (s : State) (bs : List Byte) : (s.arrive bs).cmd = s.cmd := rfl
@[simp] theorem arrive_tfi (s : State) (bs : List Byte) : (s.arrive bs).tfi = s.tfi := rfl
@[simp] theorem arrive_cap (s : State) (bs : List Byte) : (s.arrive bs).cap = s.cap := rfl
@[simp] theorem arrive_tmo (s : State) (bs : List Byte) : (s.arrive bs).tmo = s.tmo := rfl
@[simp] theorem arrive_crcr (s : State) (bs : List Byte) : (s.arrive bs).crcr = s.crcr := rfl
@[simp] theorem arrive_dcsr (s : State) (bs : List Byte) : (s.arrive bs).dcsr = s.dcsr := rfl
@[simp] theorem arrive_rlen (s : State) (bs : List Byte) : (s.arrive bs).rlen = s.rlen := rfl
@[simp] theorem arrive_txlen (s : State) (bs : List Byte) : (s.arrive bs).txlen = s.txlen := rfl
@[simp] theorem arrive_status (s : State) (bs : List Byte) : (s.arrive bs).status = s.status := rfl
@[simp] theorem arrive_errinfo (s : State) (bs : List Byte) : (s.arrive bs).errinfo = s.errinfo := rfl
@[simp] theorem arrive_lastcmd (s : State) (bs : List Byte) : (s.arrive bs).lastcmd = s.lastcmd := rfl
@[simp] theorem arrive_fsm (s : State) (bs : List Byte) : (s.arrive bs).fsm = s.fsm := rfl
@[simp] theorem arrive_abortp (s : State) (bs : List Byte) : (s.arrive bs).abortp = s.abortp := rfl
@[simp] theorem arrive_capl (s : State) (bs : List Byte) : (s.arrive bs).capl = s.capl := rfl
@[simp] theorem arrive_plen (s : State) (bs : List Byte) : (s.arrive bs).plen = s.plen := rfl
@[simp] theorem arrive_rtfi (s : State) (bs : List Byte) : (s.arrive bs).rtfi = s.rtfi := rfl
@[simp] theorem arrive_rcc (s : State) (bs : List Byte) : (s.arrive bs).rcc = s.rcc := rfl
@[simp] theorem arrive_dbuf (s : State) (bs : List Byte) : (s.arrive bs).dbuf = s.dbuf := rfl
@[simp] theorem arrive_pbuf (s : State) (bs : List Byte) : (s.arrive bs).pbuf = s.pbuf := rfl
@[simp] theorem arrive_uidbuf (s : State) (bs : List Byte) : (s.arrive bs).uidbuf = s.uidbuf := rfl
@[simp] theorem arrive_cascbuf (s : State) (bs : List Byte) : (s.arrive bs).cascbuf = s.cascbuf := rfl
@[simp] theorem arrive_txbuf (s : State) (bs : List Byte) : (s.arrive bs).txbuf = s.txbuf := rfl
@[simp] theorem arrive_rxbuf (s : State) (bs : List Byte) : (s.arrive bs).rxbuf = s.rxbuf := rfl
@[simp] theorem arrive_pending (s : State) (bs : List Byte) : (s.arrive bs).pending = s.pending ++ bs := rfl
@[simp] theorem arrive_answers (s : State) (bs : List Byte) : (s.arrive bs).answers = s.answers := rfl
@[simp] theorem arrive_calls (s : State) (bs : List Byte) : (s.arrive bs).calls = s.calls := rfl
@[simp] theorem arrive_agenda (s : State) (bs : List Byte) : (s.arrive bs).agenda = s.agenda := rfl
@[simp] theorem arrive_epoch (s : State) (bs : List Byte) : (s.arrive bs).epoch = s.epoch := rfl
@[simp] theorem arrive_draws (s : State) (bs : List Byte) : (s.arrive bs).draws = s.draws := rfl

/-! ### The transport has answered -/

@[simp] theorem afterAnswer_cfg (s : State) :
    (s.afterAnswer).cfg = s.cfg := by unfold State.afterAnswer; split <;> rfl
@[simp] theorem afterAnswer_len (s : State) :
    (s.afterAnswer).len = s.len := by unfold State.afterAnswer; split <;> rfl
@[simp] theorem afterAnswer_cmd (s : State) :
    (s.afterAnswer).cmd = s.cmd := by unfold State.afterAnswer; split <;> rfl
@[simp] theorem afterAnswer_tfi (s : State) :
    (s.afterAnswer).tfi = s.tfi := by unfold State.afterAnswer; split <;> rfl
@[simp] theorem afterAnswer_cap (s : State) :
    (s.afterAnswer).cap = s.cap := by unfold State.afterAnswer; split <;> rfl
@[simp] theorem afterAnswer_tmo (s : State) :
    (s.afterAnswer).tmo = s.tmo := by unfold State.afterAnswer; split <;> rfl
@[simp] theorem afterAnswer_crcr (s : State) :
    (s.afterAnswer).crcr = s.crcr := by unfold State.afterAnswer; split <;> rfl
@[simp] theorem afterAnswer_dcsr (s : State) :
    (s.afterAnswer).dcsr = s.dcsr := by unfold State.afterAnswer; split <;> rfl
@[simp] theorem afterAnswer_rlen (s : State) :
    (s.afterAnswer).rlen = s.rlen := by unfold State.afterAnswer; split <;> rfl
@[simp] theorem afterAnswer_txlen (s : State) :
    (s.afterAnswer).txlen = s.txlen := by unfold State.afterAnswer; split <;> rfl
@[simp] theorem afterAnswer_status (s : State) :
    (s.afterAnswer).status = s.status := by unfold State.afterAnswer; split <;> rfl
@[simp] theorem afterAnswer_errinfo (s : State) :
    (s.afterAnswer).errinfo = s.errinfo := by unfold State.afterAnswer; split <;> rfl
@[simp] theorem afterAnswer_lastcmd (s : State) :
    (s.afterAnswer).lastcmd = s.lastcmd := by unfold State.afterAnswer; split <;> rfl
@[simp] theorem afterAnswer_fsm (s : State) :
    (s.afterAnswer).fsm = s.fsm := by unfold State.afterAnswer; split <;> rfl
@[simp] theorem afterAnswer_abortp (s : State) :
    (s.afterAnswer).abortp = s.abortp := by unfold State.afterAnswer; split <;> rfl
@[simp] theorem afterAnswer_capl (s : State) :
    (s.afterAnswer).capl = s.capl := by unfold State.afterAnswer; split <;> rfl
@[simp] theorem afterAnswer_plen (s : State) :
    (s.afterAnswer).plen = s.plen := by unfold State.afterAnswer; split <;> rfl
@[simp] theorem afterAnswer_rtfi (s : State) :
    (s.afterAnswer).rtfi = s.rtfi := by unfold State.afterAnswer; split <;> rfl
@[simp] theorem afterAnswer_rcc (s : State) :
    (s.afterAnswer).rcc = s.rcc := by unfold State.afterAnswer; split <;> rfl
@[simp] theorem afterAnswer_dbuf (s : State) :
    (s.afterAnswer).dbuf = s.dbuf := by unfold State.afterAnswer; split <;> rfl
@[simp] theorem afterAnswer_pbuf (s : State) :
    (s.afterAnswer).pbuf = s.pbuf := by unfold State.afterAnswer; split <;> rfl
@[simp] theorem afterAnswer_uidbuf (s : State) :
    (s.afterAnswer).uidbuf = s.uidbuf := by unfold State.afterAnswer; split <;> rfl
@[simp] theorem afterAnswer_cascbuf (s : State) :
    (s.afterAnswer).cascbuf = s.cascbuf := by unfold State.afterAnswer; split <;> rfl
@[simp] theorem afterAnswer_txbuf (s : State) :
    (s.afterAnswer).txbuf = s.txbuf := by unfold State.afterAnswer; split <;> rfl
@[simp] theorem afterAnswer_rxbuf (s : State) :
    (s.afterAnswer).rxbuf = s.rxbuf := by unfold State.afterAnswer; split <;> rfl
@[simp] theorem afterAnswer_calls (s : State) :
    (s.afterAnswer).calls = s.calls := by unfold State.afterAnswer; split <;> rfl
@[simp] theorem afterAnswer_agenda (s : State) :
    (s.afterAnswer).agenda = s.agenda := by unfold State.afterAnswer; split <;> rfl
@[simp] theorem afterAnswer_epoch (s : State) :
    (s.afterAnswer).epoch = s.epoch := by unfold State.afterAnswer; split <;> rfl

/-! ### After a send -/

@[simp] theorem afterSend_cfg (s : State) (bytes : List Byte) :
    (s.afterSend bytes).cfg = s.cfg := by simp [State.afterSend]
@[simp] theorem afterSend_len (s : State) (bytes : List Byte) :
    (s.afterSend bytes).len = s.len := by simp [State.afterSend]
@[simp] theorem afterSend_cmd (s : State) (bytes : List Byte) :
    (s.afterSend bytes).cmd = s.cmd := by simp [State.afterSend]
@[simp] theorem afterSend_tfi (s : State) (bytes : List Byte) :
    (s.afterSend bytes).tfi = s.tfi := by simp [State.afterSend]
@[simp] theorem afterSend_cap (s : State) (bytes : List Byte) :
    (s.afterSend bytes).cap = s.cap := by simp [State.afterSend]
@[simp] theorem afterSend_tmo (s : State) (bytes : List Byte) :
    (s.afterSend bytes).tmo = s.tmo := by simp [State.afterSend]
@[simp] theorem afterSend_crcr (s : State) (bytes : List Byte) :
    (s.afterSend bytes).crcr = s.crcr := by simp [State.afterSend]
@[simp] theorem afterSend_dcsr (s : State) (bytes : List Byte) :
    (s.afterSend bytes).dcsr = s.dcsr := by simp [State.afterSend]
@[simp] theorem afterSend_rlen (s : State) (bytes : List Byte) :
    (s.afterSend bytes).rlen = s.rlen := by simp [State.afterSend]
@[simp] theorem afterSend_txlen (s : State) (bytes : List Byte) :
    (s.afterSend bytes).txlen = s.txlen := by simp [State.afterSend]
@[simp] theorem afterSend_status (s : State) (bytes : List Byte) :
    (s.afterSend bytes).status = s.status := by simp [State.afterSend]
@[simp] theorem afterSend_errinfo (s : State) (bytes : List Byte) :
    (s.afterSend bytes).errinfo = s.errinfo := by simp [State.afterSend]
@[simp] theorem afterSend_lastcmd (s : State) (bytes : List Byte) :
    (s.afterSend bytes).lastcmd = s.lastcmd := by simp [State.afterSend]
@[simp] theorem afterSend_fsm (s : State) (bytes : List Byte) :
    (s.afterSend bytes).fsm = s.fsm := by simp [State.afterSend]
@[simp] theorem afterSend_abortp (s : State) (bytes : List Byte) :
    (s.afterSend bytes).abortp = s.abortp := by simp [State.afterSend]
@[simp] theorem afterSend_capl (s : State) (bytes : List Byte) :
    (s.afterSend bytes).capl = s.capl := by simp [State.afterSend]
@[simp] theorem afterSend_plen (s : State) (bytes : List Byte) :
    (s.afterSend bytes).plen = s.plen := by simp [State.afterSend]
@[simp] theorem afterSend_rtfi (s : State) (bytes : List Byte) :
    (s.afterSend bytes).rtfi = s.rtfi := by simp [State.afterSend]
@[simp] theorem afterSend_rcc (s : State) (bytes : List Byte) :
    (s.afterSend bytes).rcc = s.rcc := by simp [State.afterSend]
@[simp] theorem afterSend_dbuf (s : State) (bytes : List Byte) :
    (s.afterSend bytes).dbuf = s.dbuf := by simp [State.afterSend]
@[simp] theorem afterSend_pbuf (s : State) (bytes : List Byte) :
    (s.afterSend bytes).pbuf = s.pbuf := by simp [State.afterSend]
@[simp] theorem afterSend_uidbuf (s : State) (bytes : List Byte) :
    (s.afterSend bytes).uidbuf = s.uidbuf := by simp [State.afterSend]
@[simp] theorem afterSend_cascbuf (s : State) (bytes : List Byte) :
    (s.afterSend bytes).cascbuf = s.cascbuf := by simp [State.afterSend]
@[simp] theorem afterSend_txbuf (s : State) (bytes : List Byte) :
    (s.afterSend bytes).txbuf = s.txbuf := by simp [State.afterSend]
@[simp] theorem afterSend_rxbuf (s : State) (bytes : List Byte) :
    (s.afterSend bytes).rxbuf = s.rxbuf := by simp [State.afterSend]
@[simp] theorem afterSend_calls (s : State) (bytes : List Byte) :
    (s.afterSend bytes).calls = .send bytes s.tmo :: s.calls := by simp [State.afterSend]
@[simp] theorem afterSend_agenda (s : State) (bytes : List Byte) :
    (s.afterSend bytes).agenda = s.agenda := by simp [State.afterSend]
@[simp] theorem afterSend_epoch (s : State) (bytes : List Byte) :
    (s.afterSend bytes).epoch = s.epoch := by simp [State.afterSend]

/-! ### After a receive -/

@[simp] theorem afterRecv_cfg (s : State) (n : Nat) : (s.afterRecv n).cfg = s.cfg := by simp [State.afterRecv]
@[simp] theorem afterRecv_len (s : State) (n : Nat) : (s.afterRecv n).len = s.len := by simp [State.afterRecv]
@[simp] theorem afterRecv_cmd (s : State) (n : Nat) : (s.afterRecv n).cmd = s.cmd := by simp [State.afterRecv]
@[simp] theorem afterRecv_tfi (s : State) (n : Nat) : (s.afterRecv n).tfi = s.tfi := by simp [State.afterRecv]
@[simp] theorem afterRecv_cap (s : State) (n : Nat) : (s.afterRecv n).cap = s.cap := by simp [State.afterRecv]
@[simp] theorem afterRecv_tmo (s : State) (n : Nat) : (s.afterRecv n).tmo = s.tmo := by simp [State.afterRecv]
@[simp] theorem afterRecv_crcr (s : State) (n : Nat) : (s.afterRecv n).crcr = s.crcr := by simp [State.afterRecv]
@[simp] theorem afterRecv_dcsr (s : State) (n : Nat) : (s.afterRecv n).dcsr = s.dcsr := by simp [State.afterRecv]
@[simp] theorem afterRecv_rlen (s : State) (n : Nat) : (s.afterRecv n).rlen = s.rlen := by simp [State.afterRecv]
@[simp] theorem afterRecv_txlen (s : State) (n : Nat) : (s.afterRecv n).txlen = s.txlen := by simp [State.afterRecv]
@[simp] theorem afterRecv_status (s : State) (n : Nat) :
    (s.afterRecv n).status = s.status := by simp [State.afterRecv]
@[simp] theorem afterRecv_errinfo (s : State) (n : Nat) :
    (s.afterRecv n).errinfo = s.errinfo := by simp [State.afterRecv]
@[simp] theorem afterRecv_lastcmd (s : State) (n : Nat) :
    (s.afterRecv n).lastcmd = s.lastcmd := by simp [State.afterRecv]
@[simp] theorem afterRecv_fsm (s : State) (n : Nat) : (s.afterRecv n).fsm = s.fsm := by simp [State.afterRecv]
@[simp] theorem afterRecv_abortp (s : State) (n : Nat) :
    (s.afterRecv n).abortp = s.abortp := by simp [State.afterRecv]
@[simp] theorem afterRecv_capl (s : State) (n : Nat) : (s.afterRecv n).capl = s.capl := by simp [State.afterRecv]
@[simp] theorem afterRecv_plen (s : State) (n : Nat) : (s.afterRecv n).plen = s.plen := by simp [State.afterRecv]
@[simp] theorem afterRecv_rtfi (s : State) (n : Nat) : (s.afterRecv n).rtfi = s.rtfi := by simp [State.afterRecv]
@[simp] theorem afterRecv_rcc (s : State) (n : Nat) : (s.afterRecv n).rcc = s.rcc := by simp [State.afterRecv]
@[simp] theorem afterRecv_dbuf (s : State) (n : Nat) : (s.afterRecv n).dbuf = s.dbuf := by simp [State.afterRecv]
@[simp] theorem afterRecv_pbuf (s : State) (n : Nat) : (s.afterRecv n).pbuf = s.pbuf := by simp [State.afterRecv]
@[simp] theorem afterRecv_uidbuf (s : State) (n : Nat) :
    (s.afterRecv n).uidbuf = s.uidbuf := by simp [State.afterRecv]
@[simp] theorem afterRecv_cascbuf (s : State) (n : Nat) :
    (s.afterRecv n).cascbuf = s.cascbuf := by simp [State.afterRecv]
@[simp] theorem afterRecv_txbuf (s : State) (n : Nat) : (s.afterRecv n).txbuf = s.txbuf := by simp [State.afterRecv]
@[simp] theorem afterRecv_rxbuf (s : State) (n : Nat) : (s.afterRecv n).rxbuf = s.rxbuf := by simp [State.afterRecv]
@[simp] theorem afterRecv_calls (s : State) (n : Nat) :
    (s.afterRecv n).calls = .recv n s.tmo :: s.calls := by simp [State.afterRecv]
@[simp] theorem afterRecv_agenda (s : State) (n : Nat) :
    (s.afterRecv n).agenda = s.agenda := by simp [State.afterRecv]
@[simp] theorem afterRecv_epoch (s : State) (n : Nat) : (s.afterRecv n).epoch = s.epoch := by simp [State.afterRecv]

end Sys2Proof.Machine.State
end

