-- ==== Sys2Proof/Laws/Memory.lean ====
section
/-! SUPPORT. The buffers: a read after a write, what a write leaves alone, and that every write keeps the canonical form
(20_memory R52, R57). -/

namespace Sys2Proof.Machine

namespace Memory

theorem get?_put (m : Memory) (a : Nat) (v : Byte) (b : Nat) :
    (Memory.put m a v).get? b = if b = a then some v else m.get? b := by
  induction m with
  | nil => simp [Memory.put, Memory.get?, eq_comm]
  | cons c m ih =>
    obtain ⟨k, w⟩ := c
    unfold Memory.put
    split
    · simp only [Memory.get?, eq_comm (a := a)]
    · split
      · subst_vars
        simp only [Memory.get?, eq_comm (a := k)]
        by_cases h : b = k <;> simp [h]
      · simp only [Memory.get?, ih]
        by_cases h : k = b
        · subst h
          simp; omega
        · simp [h]

theorem get?_putRun (vs : List Byte) : ∀ (m : Memory) (a b : Nat),
    (Memory.putRun m a vs).get? b = if a ≤ b ∧ b < a + vs.length then vs[b - a]? else m.get? b := by
  induction vs with
  | nil => intro m a b; simp [Memory.putRun]
  | cons v vs ih =>
    intro m a b
    simp only [Memory.putRun, ih, get?_put, List.length_cons]
    by_cases h1 : b = a
    · subst h1; simp
    · by_cases h2 : a + 1 ≤ b ∧ b < a + 1 + vs.length
      · rw [if_pos h2, if_pos (by omega), show b - a = (b - (a + 1)) + 1 by omega, List.getElem?_cons_succ]
      · rw [if_neg h2, if_neg h1, if_neg (by omega)]

theorem risesFrom_mono {lo lo' : Nat} (h : lo' ≤ lo) : ∀ {m : Memory}, risesFrom lo m = true → risesFrom lo' m = true
  | [], _ => rfl
  | (k, _) :: m, hm => by
    simp only [risesFrom, Bool.and_eq_true, decide_eq_true_eq] at hm ⊢
    exact ⟨by omega, hm.2⟩

theorem risesFrom_put (a : Nat) (v : Byte) : ∀ {m : Memory} {lo : Nat}, risesFrom lo m = true →
    risesFrom (min lo a) (Memory.put m a v) = true
  | [], lo, _ => by simp [Memory.put, risesFrom]
  | (k, w) :: m, lo, h => by
    simp only [risesFrom, Bool.and_eq_true, decide_eq_true_eq] at h
    unfold Memory.put
    split
    · simp only [risesFrom, Bool.and_eq_true, decide_eq_true_eq]
      exact ⟨by omega, by omega, h.2⟩
    · split
      · simp only [risesFrom, Bool.and_eq_true, decide_eq_true_eq]
        exact ⟨by omega, by subst_vars; exact h.2⟩
      · simp only [risesFrom, Bool.and_eq_true, decide_eq_true_eq]
        refine ⟨by omega, ?_⟩
        have := risesFrom_put a v h.2
        rwa [show min (k + 1) a = k + 1 by omega] at this

theorem all_put {p : Host.Cell → Bool} (a : Nat) (v : Byte) (hp : p (a, v) = true) : ∀ {m : Memory},
    m.all p = true → (Memory.put m a v).all p = true
  | [], _ => by simp [Memory.put, hp]
  | (k, w) :: m, h => by
    simp only [List.all_cons, Bool.and_eq_true] at h
    unfold Memory.put
    split
    · simp [hp, h.1, h.2]
    · split
      · simp [hp, h.2]
      · simp [h.1, all_put a v hp h.2]

theorem wf_put {cap a : Nat} {m : Memory} (v : Byte) (ha : a < cap) (h : Memory.wf cap m = true) :
    Memory.wf cap (Memory.put m a v) = true := by
  simp only [Memory.wf, Bool.and_eq_true] at h ⊢
  refine ⟨?_, all_put a v (by simpa using ha) h.2⟩
  have := risesFrom_put a v h.1
  simpa using this

/-- A write inside the capacity keeps the canonical form. -/
theorem wf_putRun {cap : Nat} : ∀ {vs : List Byte} {m : Memory} {a : Nat}, a + vs.length ≤ cap →
    Memory.wf cap m = true → Memory.wf cap (Memory.putRun m a vs) = true
  | [], _, _, _, h => h
  | v :: vs, m, a, hb, h => by
    simp only [List.length_cons] at hb
    exact wf_putRun (vs := vs) (m := Memory.put m a v) (a := a + 1) (by omega) (wf_put v (by omega) h)

@[simp] theorem wf_nil (cap : Nat) : Memory.wf cap [] = true := rfl

end Memory

namespace State

@[simp] theorem buf_setBuf_self (s : State) (b : Buf) (m : Memory) : (s.setBuf b m).buf b = m := by cases b <;> rfl

theorem buf_setBuf_ne (s : State) {b b' : Buf} (h : b' ≠ b) (m : Memory) : (s.setBuf b m).buf b' = s.buf b' := by
  cases b <;> cases b' <;> first | rfl | exact absurd rfl h

@[simp] theorem buf_memWrite_self (s : State) (b : Buf) (i : Nat) (vs : List Byte) :
    (s.memWrite b i vs).buf b = (s.buf b).putRun i vs := by simp [State.memWrite]

theorem buf_memWrite_ne (s : State) {b b' : Buf} (h : b' ≠ b) (i : Nat) (vs : List Byte) :
    (s.memWrite b i vs).buf b' = s.buf b' := by simp [State.memWrite, buf_setBuf_ne _ h]

/-- A byte depends on its buffer and on the power-up only. -/
theorem readByte_congr {s t : State} {b : Buf} (hb : s.buf b = t.buf b) (he : s.epoch = t.epoch) (a : Nat) :
    s.readByte b a = t.readByte b a := by simp [State.readByte, hb, he]

theorem memRead_congr {s t : State} {b : Buf} (hb : s.buf b = t.buf b) (he : s.epoch = t.epoch) :
    ∀ (n i : Nat), s.memRead b i n = t.memRead b i n
  | 0, _ => rfl
  | n + 1, i => by simp [State.memRead, readByte_congr hb he, memRead_congr hb he n]

@[simp] theorem memRead_length (s : State) (b : Buf) : ∀ (n i : Nat), (s.memRead b i n).length = n
  | 0, _ => rfl
  | n + 1, i => by simp [State.memRead, memRead_length s b n]

theorem memRead_getElem? (s : State) (b : Buf) : ∀ (n i k : Nat), k < n →
    (s.memRead b i n)[k]? = some (s.readByte b (i + k))
  | n + 1, i, 0, _ => by simp [State.memRead]
  | n + 1, i, k + 1, h => by
    simp only [State.memRead, List.getElem?_cons_succ]
    rw [memRead_getElem? s b n (i + 1) k (by omega)]
    congr 2; omega

/-- Read after write, one byte: inside the run the byte written, elsewhere the old one. -/
theorem readByte_memWrite (s : State) (b : Buf) (i : Nat) (vs : List Byte) (b' : Buf) (a : Nat) :
    (s.memWrite b i vs).readByte b' a =
      if b' = b ∧ i ≤ a ∧ a < i + vs.length then vs.getD (a - i) 0 else s.readByte b' a := by
  by_cases hb : b' = b
  · subst hb
    simp only [State.readByte, buf_memWrite_self, Memory.get?_putRun, memWrite_epoch, true_and]
    split
    · rename_i h
      rw [List.getElem?_eq_getElem (by omega), List.getD_eq_getElem?_getD, List.getElem?_eq_getElem (by omega)]
      simp
    · rfl
  · simp [State.readByte, buf_memWrite_ne _ hb, hb]

/-- A byte outside the written run is unchanged. -/
theorem readByte_memWrite_out (s : State) {b b' : Buf} {i a : Nat} {vs : List Byte}
    (h : ¬ (b' = b ∧ i ≤ a ∧ a < i + vs.length)) : (s.memWrite b i vs).readByte b' a = s.readByte b' a := by
  rw [readByte_memWrite, if_neg h]

/-- Read after write, the whole run. -/
theorem memRead_memWrite (s : State) (b : Buf) (i : Nat) (vs : List Byte) :
    (s.memWrite b i vs).memRead b i vs.length = vs := by
  apply List.ext_getElem?
  intro k
  by_cases hk : k < vs.length
  · rw [memRead_getElem? _ _ _ _ _ hk, readByte_memWrite, if_pos ⟨rfl, by omega, by omega⟩]
    simp [List.getD_eq_getElem?_getD, List.getElem?_eq_getElem hk]
  · rw [List.getElem?_eq_none (by simpa using hk), List.getElem?_eq_none (by simpa using hk)]

theorem memRead_memWrite_ne (s : State) {b b' : Buf} (h : b' ≠ b) (i : Nat) (vs : List Byte) (n j : Nat) :
    (s.memWrite b i vs).memRead b' j n = s.memRead b' j n :=
  memRead_congr (buf_memWrite_ne s h i vs) (memWrite_epoch s b i vs) n j

/-- A run that ends before the written one is unchanged. -/
theorem memRead_memWrite_before (s : State) (b : Buf) {i : Nat} (vs : List Byte) : ∀ (n j : Nat), j + n ≤ i →
    (s.memWrite b i vs).memRead b j n = s.memRead b j n
  | 0, _, _ => rfl
  | n + 1, j, h => by
    simp only [State.memRead]
    rw [readByte_memWrite_out s (by omega), memRead_memWrite_before s b vs n (j + 1) (by omega)]

/-- A write inside the capacity keeps every buffer in canonical form. -/
theorem wf_memWrite {s : State} {b : Buf} {i : Nat} {vs : List Byte} (hi : i + vs.length ≤ bufCapacity s.cfg b)
    (h : ∀ b', Memory.wf (bufCapacity s.cfg b') (s.buf b') = true) (b' : Buf) :
    Memory.wf (bufCapacity s.cfg b') ((s.memWrite b i vs).buf b') = true := by
  by_cases hb : b' = b
  · subst hb; rw [buf_memWrite_self]; exact Memory.wf_putRun hi (h b')
  · rw [buf_memWrite_ne s hb]; exact h b'

end State
end Sys2Proof.Machine
end

