-- ==== Sys2Proof/Laws/Transport.lean ====
section
/-! SUPPORT. The transport primitives: what a receive and a send can do (20_memory R58, R59). -/

namespace Sys2Proof.Machine.State

/-- The stream after an answer is the old one and what arrived. -/
theorem afterAnswer_pending (s : State) : s.afterAnswer.pending = s.pending ++ s.nextAnswer.arrived := by
  unfold State.afterAnswer State.nextAnswer
  cases s.answers <;> rfl

/-- An answer changes nothing but the transport's own fields. -/
theorem afterAnswer_frame (s : State) :
    { s.afterAnswer with pending := s.pending, answers := s.answers, draws := s.draws } = s := by
  simp

/-- A successful receive is exactly the oldest `n` bytes of the stream and what arrived meanwhile. -/
theorem recvReply_ok {s : State} {n : Nat} {bs : List Byte} (h : s.recvReply n = .ok bs) :
    s.nextAnswer.verdict = .ok ∧ n ≤ s.afterAnswer.pending.length ∧ bs = s.afterAnswer.pending.take n := by
  unfold State.recvReply at h
  split at h
  · split at h
    · cases h; exact ⟨‹_›, ‹_›, rfl⟩
    · cases h
  · cases h
  · cases h

theorem recvReply_length {s : State} {n : Nat} {bs : List Byte} (h : s.recvReply n = .ok bs) : bs.length = n := by
  obtain ⟨-, h1, rfl⟩ := recvReply_ok h
  simp [h1]

theorem recvConsumed_ok {s : State} {n : Nat} {bs : List Byte} (h : s.recvReply n = .ok bs) : s.recvConsumed n = n := by
  simp [State.recvConsumed, h]

theorem recvConsumed_error {s : State} {n : Nat} {e : TransportFail} (h : s.recvReply n = .error e) :
    s.recvConsumed n ≤ n - 1 := by
  simp only [State.recvConsumed, h]; omega

theorem afterRecv_pending (s : State) (n : Nat) :
    (s.afterRecv n).pending = (s.pending ++ s.nextAnswer.arrived).drop (s.recvConsumed n) := by
  simp [State.afterRecv, afterAnswer_pending]

/-- A receive changes nothing of the block. -/
theorem afterRecv_frame (s : State) (n : Nat) :
    { s.afterRecv n with calls := s.calls, pending := s.pending, answers := s.answers, draws := s.draws } = s := by
  simp

/-- A send changes nothing of the block. -/
theorem afterSend_frame (s : State) (bs : List Byte) :
    { s.afterSend bs with calls := s.calls, pending := s.pending, answers := s.answers, draws := s.draws } = s := by
  simp

@[simp] theorem buf_afterAnswer (s : State) (b : Buf) : s.afterAnswer.buf b = s.buf b := by cases b <;> simp [State.buf]

@[simp] theorem buf_afterRecv (s : State) (n : Nat) (b : Buf) : (s.afterRecv n).buf b = s.buf b := by
  cases b <;> simp [State.buf]

@[simp] theorem buf_afterSend (s : State) (bs : List Byte) (b : Buf) : (s.afterSend bs).buf b = s.buf b := by
  cases b <;> simp [State.buf]

@[simp] theorem readByte_afterRecv (s : State) (n : Nat) (b : Buf) (a : Nat) :
    (s.afterRecv n).readByte b a = s.readByte b a := readByte_congr (by simp) (by simp) a

@[simp] theorem readByte_afterSend (s : State) (bs : List Byte) (b : Buf) (a : Nat) :
    (s.afterSend bs).readByte b a = s.readByte b a := readByte_congr (by simp) (by simp) a

@[simp] theorem memRead_afterRecv (s : State) (n : Nat) (b : Buf) (i k : Nat) :
    (s.afterRecv n).memRead b i k = s.memRead b i k := memRead_congr (by simp) (by simp) k i

@[simp] theorem memRead_afterSend (s : State) (bs : List Byte) (b : Buf) (i k : Nat) :
    (s.afterSend bs).memRead b i k = s.memRead b i k := memRead_congr (by simp) (by simp) k i

/-! ### An answer that succeeds and brings nothing -/

theorem recvReply_next {s : State} {lost : Nat} {rest : List Answer} {n : Nat} {bs more : List Byte}
    (ha : s.answers = ⟨[], .ok, lost⟩ :: rest) (hp : s.pending = bs ++ more) (hn : bs.length = n) :
    s.recvReply n = .ok bs := by
  subst hn
  simp [State.recvReply, State.nextAnswer, State.afterAnswer, ha, hp]

theorem afterRecv_next {s : State} {lost : Nat} {rest : List Answer} {n : Nat} {bs more : List Byte}
    (ha : s.answers = ⟨[], .ok, lost⟩ :: rest) (hp : s.pending = bs ++ more) (hn : bs.length = n) :
    s.afterRecv n = { s with answers := rest, calls := .recv n s.tmo :: s.calls, pending := more } := by
  have h1 := recvConsumed_ok (recvReply_next ha hp hn)
  simp only [State.afterRecv, State.afterAnswer, ha, h1]
  subst hn
  simp [hp]

end Sys2Proof.Machine.State
end

