-- ==== Sys2Proof/Laws/Block.lean ====
section
/-! SUPPORT. What one step can do, said once: the effects of a BLOCK step (42 R160, 43 R178), of an operation's first
step, and of a step of the machine. Later proofs cite these and do not unfold the step. -/

namespace Sys2Proof.Machine

/-- Everything a BLOCK step from `s` can lead to: a row of R160 or R178 each. -/
inductive BlockEffect (s : State) : State → Prop where
  | stay (h : s.fsm = .idle) : BlockEffect s s
  | abort (h : s.fsm.abortable = true) (ha : s.abortp = true) : BlockEffect s s.takeAbort
  | txFail (h : s.fsm = .txSend) (e : TransportFail) : BlockEffect s ((s.afterSend s.txFrame).raiseFail e)
  | txSent (h : s.fsm = .txSend) : BlockEffect s { s.afterSend s.txFrame with fsm := .awaitAck }
  | ackFail (h : s.fsm = .awaitAck) (e : TransportFail) : BlockEffect s ((s.afterRecv 6).raiseFail e)
  | acked (h : s.fsm = .awaitAck) : BlockEffect s ((s.afterRecv 6).doneLen 0)
  | ackErr (h : s.fsm = .awaitAck) (ht : s.cfg.errTrail = 0) : BlockEffect s ((s.afterRecv 6).raise .protocolError 0)
  | ackDrain (h : s.fsm = .awaitAck) (ht : 0 < s.cfg.errTrail) : BlockEffect s { s.afterRecv 6 with fsm := .errDrain }
  | ackOther (h : s.fsm = .awaitAck) : BlockEffect s ((s.afterRecv 6).raise .transportError 0)
  | errDrained (h : s.fsm = .errDrain) : BlockEffect s ((s.afterRecv s.cfg.errTrail).raise .protocolError 0)
  | hdrFail (h : s.fsm = .rxHdr) (ha : s.abortp = false) (e : TransportFail) :
      BlockEffect s ((s.afterRecv 5).raiseFail e)
  | hdrBad (h : s.fsm = .rxHdr) (ha : s.abortp = false) : BlockEffect s ((s.afterRecv 5).raise .framingError 0)
  | hdrApp (h : s.fsm = .rxHdr) (ha : s.abortp = false) : BlockEffect s { s.afterRecv 5 with fsm := .appDrain }
  | hdrExt (h : s.fsm = .rxHdr) (ha : s.abortp = false) : BlockEffect s ((s.afterRecv 5).raise .unsupportedFrame 0)
  | hdrSmall (h : s.fsm = .rxHdr) (ha : s.abortp = false) : BlockEffect s ((s.afterRecv 5).raise .bufferTooSmall 0)
  | hdrOk (h : s.fsm = .rxHdr) (ha : s.abortp = false) (len : Byte) (h2 : 2 ≤ len.toNat)
      (hc : len.toNat - 2 ≤ s.capl.toNat) : BlockEffect s { s.afterRecv 5 with plen := len - 2, fsm := .rxTc }
  | appDrained (h : s.fsm = .appDrain) : BlockEffect s ((s.afterRecv 3).raise .applicationError 0)
  | tcFail (h : s.fsm = .rxTc) (ha : s.abortp = false) (e : TransportFail) : BlockEffect s ((s.afterRecv 2).raiseFail e)
  | tcBad (h : s.fsm = .rxTc) (ha : s.abortp = false) (t cc : Byte) :
      BlockEffect s (({ s.afterRecv 2 with rtfi := t, rcc := cc } : State).raise .unexpectedResponse 0)
  | tcEmpty (h : s.fsm = .rxTc) (ha : s.abortp = false) (hp : s.plen = 0) :
      BlockEffect s { s.afterRecv 2 with rtfi := tfiC2H, rcc := s.lastcmd + 1, fsm := .rxTrailer }
  | tcPayload (h : s.fsm = .rxTc) (ha : s.abortp = false) (hp : s.plen ≠ 0) :
      BlockEffect s { s.afterRecv 2 with rtfi := tfiC2H, rcc := s.lastcmd + 1, fsm := .rxPayload }
  | plFail (h : s.fsm = .rxPayload) (ha : s.abortp = false) (hf : s.fits .rxbuf 0 s.plen.toNat = true)
      (e : TransportFail) : BlockEffect s ((s.afterRecv s.plen.toNat).loseRxPayload.raiseFail e)
  | plOk (h : s.fsm = .rxPayload) (ha : s.abortp = false) (hf : s.fits .rxbuf 0 s.plen.toNat = true)
      (bs : List Byte) (hb : bs.length = s.plen.toNat) : BlockEffect s ((s.afterRecv s.plen.toNat).onPayload bs)
  | trFail (h : s.fsm = .rxTrailer) (ha : s.abortp = false) (e : TransportFail) :
      BlockEffect s ((s.afterRecv 2).raiseFail e)
  | trBadDcs (h : s.fsm = .rxTrailer) (ha : s.abortp = false) :
      BlockEffect s ((s.afterRecv 2).raise .checksumMismatch 0)
  | trBadPost (h : s.fsm = .rxTrailer) (ha : s.abortp = false) : BlockEffect s ((s.afterRecv 2).raise .framingError 0)
  | trOk (h : s.fsm = .rxTrailer) (ha : s.abortp = false) :
      BlockEffect s { (s.afterRecv 2).doneLen (s.plen.setWidth 16) with lastcmd := s.lastcmd + 1 }
  | woken (h : s.fsm = .rsWake) : BlockEffect s { s.afterSend s.cfg.wakeupFrame with fsm := .rsSend }
  | probeFail (h : s.fsm = .rsSend) : BlockEffect s ((s.layProbe.afterSend s.probeFrame).raise .aborted 0)
  | probeSent (h : s.fsm = .rsSend) : BlockEffect s { s.layProbe.afterSend s.probeFrame with fsm := .rsAck }
  | rsEnd (h : s.fsm = .rsAck) : BlockEffect s ((s.afterRecv 6).raise .aborted 0)
  | rsErr (h : s.fsm = .rsAck) (ht : 0 < s.cfg.errTrail) : BlockEffect s { s.afterRecv 6 with fsm := .rsDrain }
  | rsDrained (h : s.fsm = .rsDrain) : BlockEffect s ((s.afterRecv s.cfg.errTrail).raise .aborted 0)

theorem unlessAborted_next {s t : State} {k : Out} (h : s.unlessAborted k = .next t) :
    s.abortp = true ∧ t = s.takeAbort ∨ s.abortp = false ∧ k = .next t := by
  unfold State.unlessAborted at h
  split at h
  · cases h; exact .inl ⟨‹_›, rfl⟩
  · rename_i ha
    exact .inr ⟨by simpa using ha, h⟩

theorem inside_next {ok : Bool} {u t : State} (h : State.inside ok u = .next t) : ok = true ∧ t = u := by
  unfold State.inside at h
  split at h
  · cases h; exact ⟨‹_›, rfl⟩
  · cases h

theorem start_next {s u t : State} {ok : Bool} (h : s.start ok u = .next t) : s.fsm = .idle ∧ ok = true ∧ t = u := by
  unfold State.start at h
  split at h
  · split at h
    · cases h; exact ⟨‹_›, ‹_›, rfl⟩
    · cases h
  · cases h

/-- A header that is classified as normal has LEN ≥ 2. -/
theorem classifyHeader_len {h : List Byte} {len : Byte} (hc : classifyHeader h = .normal len) : 2 ≤ len.toNat := by
  unfold classifyHeader at hc
  split at hc
  · repeat (split at hc; · cases hc)
    cases hc; omega
  · cases hc

/-- What a BLOCK step can do. -/
theorem blockStep_effect {s t : State} (h : s.blockStep = .next t) : BlockEffect s t := by
  unfold State.blockStep at h
  split at h <;> rename_i hf
  · cases h; exact .stay hf
  · obtain ⟨-, rfl⟩ := inside_next h
    unfold State.stepTxSend
    split
    · exact .txFail hf _
    · exact .txSent hf
  · cases h
    unfold State.stepAwaitAck
    split
    · unfold State.onAck
      split
      · exact .acked hf
      · split
        · rename_i ht
          exact .ackErr hf (by simpa using ht)
        · rename_i ht
          exact .ackDrain hf (by simp at ht; omega)
      · exact .ackOther hf
    · exact .ackFail hf _
  · cases h; exact .errDrained hf
  · obtain ⟨ha, rfl⟩ | ⟨ha, hk⟩ := unlessAborted_next h
    · exact .abort (by rw [hf]; rfl) ha
    · cases hk
      unfold State.stepRxHdr
      split
      · unfold State.onHeader
        split
        · exact .hdrBad hf ha
        · exact .hdrApp hf ha
        · exact .hdrExt hf ha
        · split
          · exact .hdrSmall hf ha
          · rename_i hc hn
            exact .hdrOk hf ha _ (classifyHeader_len hc) (by simpa using hn)
      · exact .hdrFail hf ha _
  · cases h; exact .appDrained hf
  · obtain ⟨ha, rfl⟩ | ⟨ha, hk⟩ := unlessAborted_next h
    · exact .abort (by rw [hf]; rfl) ha
    · cases hk
      unfold State.stepRxTc
      split
      · unfold State.onTc
        dsimp only
        split
        · exact .tcBad hf ha _ _
        · rename_i hn
          simp only [ne_eq, not_or, Classical.not_not, State.afterRecv_lastcmd] at hn
          rw [hn.1, hn.2]
          split
          · rename_i hp
            exact .tcEmpty hf ha (by simpa using hp)
          · rename_i hp
            exact .tcPayload hf ha (by simpa using hp)
      · exact .tcFail hf ha _
  · obtain ⟨ha, rfl⟩ | ⟨ha, hk⟩ := unlessAborted_next h
    · exact .abort (by rw [hf]; rfl) ha
    · obtain ⟨hi, rfl⟩ := inside_next hk
      unfold State.stepRxPayload
      split
      · exact .plOk hf ha hi _ (State.recvReply_length ‹_›)
      · exact .plFail hf ha hi _
  · obtain ⟨ha, rfl⟩ | ⟨ha, hk⟩ := unlessAborted_next h
    · exact .abort (by rw [hf]; rfl) ha
    · obtain ⟨-, rfl⟩ := inside_next hk
      unfold State.stepRxTrailer
      split
      · unfold State.onTrailer
        split
        · exact .trBadDcs hf ha
        · split
          · exact .trBadPost hf ha
          · simpa using BlockEffect.trOk hf ha
      · exact .trFail hf ha _
  · cases h; exact .woken hf
  · cases h
    unfold State.stepRsSend
    split
    · exact .probeFail hf
    · exact .probeSent hf
  · cases h
    unfold State.stepRsAck
    split
    · split
      · exact .rsErr hf (‹_ ∧ _›).2
      · exact .rsEnd hf
    · exact .rsEnd hf
  · cases h; exact .rsDrained hf

/-- Everything the first step of an operation, or the laying of a layout, can lead to in IDLE. -/
inductive OpEffect (s : State) : State → Prop where
  | crc (c : Half) : OpEffect s (s.finishCrc c)
  | append (c : Half) (hf : s.fits .dbuf s.len.toNat 2 = true) : OpEffect s (s.appendCrc c)
  | dataSum (d : Byte) : OpEffect s { s.done with dcsr := d }
  | cascade (bs : List Byte) (hl : bs.length ≤ 12) : OpEffect s (s.layCascade bs)
  | badUid : OpEffect s (s.raise .invalidUidLength 0)
  | tooLarge : OpEffect s (s.raise .payloadTooLarge 0)
  | built (hl : s.len.toNat ≤ s.cfg.maxPayload) : OpEffect s (s.build.doneLen (s.len + 9))
  | sending (hl : s.len.toNat ≤ s.cfg.maxPayload) : OpEffect s { s.build with fsm := .txSend }
  | receiving (hc : s.cap.toNat ≤ s.cfg.rxcap) : OpEffect s { s with capl := s.cap, fsm := .rxHdr }

theorem cascadeUid_length {u bs : List Byte} (h : cascadeUid u = some bs) : bs.length ≤ 12 := by
  unfold cascadeUid at h
  split at h <;> cases h <;> simp

theorem cascade_effect (s : State) : OpEffect s s.cascade := by
  unfold State.cascade
  split
  · split
    · exact .cascade _ (cascadeUid_length ‹_›)
    · exact .badUid
  · exact .badUid

theorem not_payloadTooLarge {s : State} (h : ¬ s.payloadTooLarge = true) : s.len.toNat ≤ s.cfg.maxPayload := by
  simpa [State.payloadTooLarge] using h

/-- What an operation's or a layout's `exec` can do. -/
theorem exec_op_effect {s t : State} {i : Instr} (hi : isOperation i = true ∨ isLayout i = true)
    (h : exec i s = .next t) : s.fsm = .idle ∧ OpEffect s t := by
  cases i <;> simp only [exec] at h
  case crca => obtain ⟨hf, -, rfl⟩ := start_next h; exact ⟨hf, .crc _⟩
  case crcaApp => obtain ⟨hf, hk, rfl⟩ := start_next h; exact ⟨hf, .append _ hk⟩
  case crcb => obtain ⟨hf, -, rfl⟩ := start_next h; exact ⟨hf, .crc _⟩
  case crcbApp => obtain ⟨hf, hk, rfl⟩ := start_next h; exact ⟨hf, .append _ hk⟩
  case dcs => obtain ⟨hf, -, rfl⟩ := start_next h; exact ⟨hf, .dataSum _⟩
  case casc => obtain ⟨hf, -, rfl⟩ := start_next h; exact ⟨hf, cascade_effect s⟩
  case fbuild =>
    obtain ⟨hf, -, rfl⟩ := start_next h
    refine ⟨hf, ?_⟩
    split
    · exact .tooLarge
    · exact .built (not_payloadTooLarge ‹_›)
  case fcmd =>
    obtain ⟨hf, -, rfl⟩ := start_next h
    refine ⟨hf, ?_⟩
    split
    · exact .tooLarge
    · exact .sending (not_payloadTooLarge ‹_›)
  case frecv =>
    obtain ⟨hf, hk, rfl⟩ := start_next h
    exact ⟨hf, .receiving (by simpa [State.fits, bufCapacity] using hk)⟩
  case crcPair => obtain ⟨hf, hk, rfl⟩ := start_next h; exact ⟨hf, .append _ hk⟩
  case casc4 => obtain ⟨hf, -, rfl⟩ := start_next h; exact ⟨hf, .cascade _ (by simp)⟩
  case casc7 => obtain ⟨hf, -, rfl⟩ := start_next h; exact ⟨hf, .cascade _ (by simp)⟩
  case casc10 => obtain ⟨hf, -, rfl⟩ := start_next h; exact ⟨hf, .cascade _ (by simp)⟩
  all_goals simp [isOperation, isLayout, Instr.port] at hi

/-- A received format: it arrives, and the BLOCK takes its step if it waits for bytes. -/
theorem exec_received {i : Instr} (hi : isReceived i = true) (s : State) : exec i s = s.receive (encode s.cfg i) := by
  cases i <;> first | rfl | (exfalso; revert hi; simp [isReceived, Instr.port])

theorem receive_next {s t : State} {bs : List Byte} (h : s.receive bs = .next t) :
    t = s.arrive bs ∨ BlockEffect (s.arrive bs) t := by
  unfold State.receive at h
  split at h
  · exact .inr (blockStep_effect h)
  · cases h; exact .inl rfl

/-- What any instruction's `exec` can do. -/
theorem exec_effect {s t : State} {i : Instr} (h : exec i s = .next t) :
    (s.fsm = .idle ∧ OpEffect s t) ∨ BlockEffect s t ∨
      ∃ bs, t = s.arrive bs ∨ BlockEffect (s.arrive bs) t := by
  by_cases hi : isOperation i = true ∨ isLayout i = true
  · exact .inl (exec_op_effect hi h)
  by_cases hr : isReceived i = true
  · rw [exec_received hr] at h
    exact .inr (.inr ⟨_, receive_next h⟩)
  · right; left
    cases i <;> simp [isOperation, isLayout, isReceived, Instr.port] at hi hr
    · simp only [exec, execNfH2C] at h
      split at h
      · exact blockStep_effect h
      · cases h
    · simp only [exec, execWake] at h
      split at h
      · exact blockStep_effect h
      · cases h

/-- The effect of an accepted HOST write. -/
inductive HostEffect (s : State) : State → Prop where
  | len (v : Half) : HostEffect s { s with len := v }
  | cmd (v : Byte) : HostEffect s { s with cmd := v }
  | tfi (v : Byte) : HostEffect s { s with tfi := v }
  | cap (v : Half) : HostEffect s { s with cap := v }
  | tmo (v : Word) : HostEffect s { s with tmo := v }
  | bytes (b : Buf) (i : Nat) (vs : List Byte) (hf : i + vs.length ≤ bufCapacity s.cfg b) :
      HostEffect s (s.memWrite b i vs)

theorem hostWrite_effect {s t : State} {w : HostWrite} (h : s.hostWrite w = .next t) :
    s.fsm = .idle ∧ HostEffect s t := by
  unfold State.hostWrite at h
  split at h
  · rename_i hf
    refine ⟨hf, ?_⟩
    cases w <;> simp only [State.hostStore] at h
    · cases h; exact .len _
    · cases h; exact .cmd _
    · cases h; exact .tfi _
    · cases h; exact .cap _
    · cases h; exact .tmo _
    · split at h
      · rename_i hk
        cases h; exact .bytes _ _ _ (by simpa [State.fits] using hk)
      · cases h
  · cases h

/-- Everything a step of the machine can lead to; `s` is the state in which the event, if any, has left the agenda. -/
inductive Effect (s : State) : State → Prop where
  | op {t : State} (hf : s.fsm = .idle) (e : OpEffect s t) : Effect s t
  | block {t : State} (e : BlockEffect s t) : Effect s t
  | arrive (bs : List Byte) : Effect s (s.arrive bs)
  | arriveBlock (bs : List Byte) {t : State} (e : BlockEffect (s.arrive bs) t) : Effect s t
  | host {t : State} (hf : s.fsm = .idle) (e : HostEffect s t) : Effect s t
  | cancel : Effect s s.cancel
  | reset : Effect s s.resetEvent

theorem effect_of_exec {s t : State} {i : Instr} (h : exec i s = .next t) : Effect s t := by
  obtain ⟨hf, e⟩ | e | ⟨bs, rfl | e⟩ := exec_effect h
  · exact .op hf e
  · exact .block e
  · exact .arrive bs
  · exact .arriveBlock bs e

theorem runEvent_effect {s t : State} {e : Event} (h : s.runEvent e = .next t) : Effect s t := by
  cases e <;> simp only [State.runEvent] at h
  · split at h
    · exact effect_of_exec h
    · cases h
  · obtain ⟨hf, e⟩ := hostWrite_effect h
    exact .host hf e
  · cases h; exact .cancel
  · cases h; exact .arrive _
  · split at h
    · exact effect_of_exec h
    · obtain rfl | e := receive_next h
      · exact .arrive _
      · exact .arriveBlock _ e
  · exact .block (blockStep_effect h)
  · cases h; exact .reset

/-- What a step of the machine can do. -/
theorem step_effect {s t : State} (h : step s = .next t) :
    Effect s t ∨ ∃ e rest, s.agenda = e :: rest ∧ Effect { s with agenda := rest } t := by
  unfold step at h
  split at h
  · exact .inl (.block (blockStep_effect h))
  · exact .inr ⟨_, _, ‹_›, runEvent_effect h⟩

end Sys2Proof.Machine
end

