-- ==== Sys2Proof/Laws/Host.lean ====
section
/-! SUPPORT. What the HOST reads of a buffer (10_state R30, R34). -/

namespace Sys2Proof.Machine

namespace State

/-- What the HOST reads of a buffer depends on that buffer, the power-up and the parameters only. -/
theorem hostBytes_congr {s t : State} {b : Buf} (hb : s.buf b = t.buf b) (he : s.epoch = t.epoch) (hc : s.cfg = t.cfg) :
    s.hostBytes b = t.hostBytes b := by
  rw [State.hostBytes, State.hostBytes, hc, memRead_congr hb he]

@[simp] theorem hostBytes_length (s : State) (b : Buf) : (s.hostBytes b).length = bufCapacity s.cfg b :=
  memRead_length s b _ 0

/-- Every byte below the capacity, as one byte is read. -/
theorem hostBytes_getElem? (s : State) (b : Buf) {a : Nat} (h : a < bufCapacity s.cfg b) :
    (s.hostBytes b)[a]? = some (s.readByte b a) := by
  rw [State.hostBytes, memRead_getElem? _ _ _ _ _ h, Nat.zero_add]

@[simp] theorem hostView_bytes (s : State) (b : Buf) : s.hostView.bytes b = s.hostBytes b := by cases b <;> rfl

end State
end Sys2Proof.Machine
end

