-- ==== Sys2Proof/Laws/Operations.lean ====
section
/-! SUPPORT. One lemma for each shared operation that writes a buffer: what it leaves in the buffers and in the registers;
and how a run of the machine unfolds by one step. -/

namespace Sys2Proof.Machine

/-! ### The two bytes of a CRC -/

theorem pair_toNat (lo hi : Byte) : (hi ++ lo : Half).toNat = hi.toNat * 256 + lo.toNat := by
  rw [BitVec.toNat_append, Nat.shiftLeft_eq, Nat.mul_comm, ← Nat.two_pow_add_eq_or_of_lt lo.isLt]

theorem crcLo_pair (lo hi : Byte) : crcLo (hi ++ lo) = lo := by
  apply BitVec.eq_of_toNat_eq
  rw [crcLo, BitVec.toNat_setWidth, pair_toNat]
  have := lo.isLt
  omega

theorem crcHi_pair (lo hi : Byte) : crcHi (hi ++ lo) = hi := by
  apply BitVec.eq_of_toNat_eq
  rw [crcHi, BitVec.toNat_setWidth, BitVec.toNat_ushiftRight, pair_toNat, Nat.shiftRight_eq_div_pow]
  have := lo.isLt
  have := hi.isLt
  omega

theorem pair_of_crc (c : Half) : (crcHi c ++ crcLo c : Half) = c := by
  apply BitVec.eq_of_toNat_eq
  rw [pair_toNat]
  simp only [crcHi, crcLo, BitVec.toNat_setWidth, BitVec.toNat_ushiftRight, Nat.shiftRight_eq_div_pow]
  have := c.isLt
  omega

/-! ### The operations -/

namespace State

/-- What an append leaves (40 R104, R106): the pair in DBUF, every other byte as before, RLEN, CRCR, the status pair. -/
theorem appendCrc_spec (s : State) (c : Half) :
    (s.appendCrc c).readByte .dbuf s.len.toNat = crcLo c ∧
    (s.appendCrc c).readByte .dbuf (s.len.toNat + 1) = crcHi c ∧
    (∀ b a, ¬ (b = .dbuf ∧ s.len.toNat ≤ a ∧ a < s.len.toNat + 2) →
      (s.appendCrc c).readByte b a = s.readByte b a) ∧
    (s.len.toNat + 2 < 65536 → (s.appendCrc c).rlen.toNat = s.len.toNat + 2) ∧
    s.appendCrc c = { s with
      dbuf := (s.appendCrc c).dbuf, crcr := c, rlen := appendedLength s.len, status := statusOk, errinfo := 0,
      fsm := .idle } := by
  have hb : ∀ b a, (s.appendCrc c).readByte b a = (s.memWrite .dbuf s.len.toNat [crcLo c, crcHi c]).readByte b a :=
    fun b a => readByte_congr (by cases b <;> rfl) rfl a
  refine ⟨?_, ?_, ?_, ?_, rfl⟩
  · rw [hb, readByte_memWrite]; simp
  · rw [hb, readByte_memWrite]; simp
  · intro b a h; rw [hb, readByte_memWrite_out]; simpa using h
  · intro h
    show (appendedLength s.len).toNat = _
    rw [appendedLength, if_pos h, BitVec.toNat_add]
    exact Nat.mod_eq_of_lt h

/-- The data an append reads are below the bytes it writes, so they are as before. -/
theorem dataBytes_appendCrc (s : State) (c : Half) : (s.appendCrc c).dataBytes = s.dataBytes := by
  show (s.appendCrc c).memRead .dbuf 0 s.len.toNat = s.memRead .dbuf 0 s.len.toNat
  rw [← memRead_memWrite_before s .dbuf (i := s.len.toNat) [crcLo c, crcHi c] _ _ (by omega)]
  exact memRead_congr (s := s.appendCrc c) (t := s.memWrite _ _ _) (b := .dbuf) rfl rfl _ _

/-- What the laying of a cascade layout leaves (41 R121, 30 R85). -/
theorem layCascade_spec (s : State) {bs : List Byte} (hl : bs.length ≤ 12) :
    (s.layCascade bs).memRead .cascbuf 0 bs.length = bs ∧
    (∀ b a, ¬ (b = .cascbuf ∧ a < bs.length) → (s.layCascade bs).readByte b a = s.readByte b a) ∧
    (s.layCascade bs).rlen.toNat = bs.length ∧
    s.layCascade bs = { s with
      cascbuf := (s.layCascade bs).cascbuf, rlen := BitVec.ofNat 16 bs.length, status := statusOk, errinfo := 0,
      fsm := .idle } := by
  have hb : ∀ b, (s.layCascade bs).buf b = (s.memWrite .cascbuf 0 bs).buf b := fun b => by cases b <;> rfl
  refine ⟨?_, ?_, ?_, rfl⟩
  · rw [memRead_congr (t := s.memWrite .cascbuf 0 bs) (hb _) rfl, memRead_memWrite]
  · intro b a h
    rw [readByte_congr (t := s.memWrite .cascbuf 0 bs) (hb _) rfl, readByte_memWrite_out]
    simpa using h
  · show (BitVec.ofNat 16 bs.length).toNat = _
    simp
    omega

/-- What the build step leaves (42 R132, R133). -/
theorem build_spec (s : State) (h : s.len.toNat ≤ s.cfg.maxPayload) :
    s.build.memRead .txbuf 0 (s.len.toNat + 9) = buildFrame s.cmd s.payloadBytes ∧
    (∀ b a, ¬ (b = .txbuf ∧ a < s.len.toNat + 9) → s.build.readByte b a = s.readByte b a) ∧
    s.build.txlen.toNat = s.len.toNat + 9 ∧
    s.build = { s with txbuf := s.build.txbuf, txlen := s.len + 9, lastcmd := s.cmd } := by
  have hm := s.cfg.maxPayload_le
  have hb : ∀ b, s.build.buf b = (s.memWrite .txbuf 0 (buildFrame s.cmd s.payloadBytes)).buf b :=
    fun b => by cases b <;> rfl
  have hlen : (buildFrame s.cmd s.payloadBytes).length = s.len.toNat + 9 := by simp [State.payloadBytes]
  refine ⟨?_, ?_, ?_, rfl⟩
  · rw [memRead_congr (hb _) rfl, ← hlen, memRead_memWrite]
  · intro b a hn
    rw [readByte_congr (hb _) rfl, readByte_memWrite_out]
    rw [hlen]
    simpa using hn
  · show (s.len + 9).toNat = _
    simp
    omega

@[simp] theorem probeFrame_length (s : State) : s.probeFrame.length = s.cfg.probePayload.length + 9 := by
  simp [State.probeFrame]

/-- What the laying of the probe frame leaves (43 R175). -/
theorem layProbe_spec (s : State) :
    s.layProbe.memRead .txbuf 0 (s.cfg.probePayload.length + 9) = s.probeFrame ∧
    (∀ b a, ¬ (b = .txbuf ∧ a < s.cfg.probePayload.length + 9) → s.layProbe.readByte b a = s.readByte b a) ∧
    s.layProbe.txlen.toNat = s.cfg.probePayload.length + 9 ∧
    s.layProbe = { s with txbuf := s.layProbe.txbuf, txlen := s.layProbe.txlen } := by
  have h1 := s.cfg.probePayload_le
  have h2 := s.cfg.maxPayload_le
  have hb : ∀ b, s.layProbe.buf b = (s.memWrite .txbuf 0 s.probeFrame).buf b := fun b => by cases b <;> rfl
  refine ⟨?_, ?_, ?_, rfl⟩
  · rw [memRead_congr (hb _) rfl, ← probeFrame_length, memRead_memWrite]
  · intro b a hn
    rw [readByte_congr (hb _) rfl, readByte_memWrite_out]
    simpa using hn
  · show (BitVec.ofNat 16 s.probeFrame.length).toNat = _
    rw [probeFrame_length]
    simp
    omega

end State

@[simp] theorem freeRun_length (d : Nat) : ∀ n k, (freeRun d k n).length = n
  | 0, _ => rfl
  | n + 1, k => by simp [freeRun, freeRun_length d n]

/-! ### Runs -/

/-- A run of `n + 1` steps is a run of `n` steps from the state after the first. -/
theorem run_next (M : Host.Core) {s t : M.State} (h : M.step s = .next t) (n : Nat) : M.run (n + 1) s = M.run n t := by
  simp only [Host.Core.run, h]

/-- With an empty agenda a step is the BLOCK's. -/
theorem step_block {s : State} (h : s.agenda = []) : step s = s.blockStep := by
  unfold step; rw [h]

end Sys2Proof.Machine
end

