-- ==== Sys2Proof/Laws/PerInstr.lean ====
section
/-! SUPPORT. A statement for every instruction, one lemma for each constructor: the number of bytes of its encoding
(30_encoding R71, R76 to R80, R84 to R86). -/

namespace Sys2Proof.Laws.EncodeLength

/-- How many bytes each encoding has. -/
def bytes (c : Params) : Instr → Nat
  | .crca => 1
  | .crcaApp => 1
  | .crcb => 1
  | .crcbApp => 1
  | .dcs => 1
  | .casc => 1
  | .fbuild => 1
  | .fcmd => 1
  | .frecv => 1
  | .nfH2C _ payload => payload.length + 9
  | .nfC2H _ payload => payload.length + 9
  | .ack => 6
  | .err _ => 6 + c.errTrail
  | .apperr _ _ _ => 8
  | .ext rest => 5 + rest.length
  | .wake => c.wakeupFrame.length
  | .crcPair _ _ => 2
  | .casc4 _ _ _ _ => 4
  | .casc7 _ _ _ _ _ _ _ => 8
  | .casc10 _ _ _ _ _ _ _ _ _ _ => 12

/-- A well-formed instruction's encoding has that many bytes, and at least one. -/
def Statement (i : Instr) : Prop :=
  ∀ c : Params, i.wf c = true → (encode c i).length = bytes c i ∧ 1 ≤ (encode c i).length

theorem crca : Statement .crca := fun _ _ => ⟨rfl, Nat.le_refl 1⟩

theorem crcaApp : Statement .crcaApp := fun _ _ => ⟨rfl, Nat.le_refl 1⟩

theorem crcb : Statement .crcb := fun _ _ => ⟨rfl, Nat.le_refl 1⟩

theorem crcbApp : Statement .crcbApp := fun _ _ => ⟨rfl, Nat.le_refl 1⟩

theorem dcs : Statement .dcs := fun _ _ => ⟨rfl, Nat.le_refl 1⟩

theorem casc : Statement .casc := fun _ _ => ⟨rfl, Nat.le_refl 1⟩

theorem fbuild : Statement .fbuild := fun _ _ => ⟨rfl, Nat.le_refl 1⟩

theorem fcmd : Statement .fcmd := fun _ _ => ⟨rfl, Nat.le_refl 1⟩

theorem frecv : Statement .frecv := fun _ _ => ⟨rfl, Nat.le_refl 1⟩

theorem nfH2C (cc : Byte) (payload : List Byte) : Statement (.nfH2C cc payload) := by
  intro c _
  simp [encode, bytes]

theorem nfC2H (cc : Byte) (payload : List Byte) : Statement (.nfC2H cc payload) := by
  intro c _
  simp [encode, bytes]

theorem ack : Statement .ack := by
  intro c _
  simp [encode, bytes, c.ackFrame_length]

theorem err (tail : List Byte) : Statement (.err tail) := by
  intro c h
  simp only [Instr.wf, decide_eq_true_eq] at h
  have e : (encode c (.err tail)).length = 6 + c.errTrail := by simp [encode, c.errFrame_length, h]
  exact ⟨e, by omega⟩

theorem apperr (x0 x1 x2 : Byte) : Statement (.apperr x0 x1 x2) := fun _ _ => ⟨rfl, by simp [encode]⟩

theorem ext (rest : List Byte) : Statement (.ext rest) := by
  intro c _
  have e : (encode c (.ext rest)).length = 5 + rest.length := by simp [encode, extMarker, preamble]; omega
  exact ⟨e, by omega⟩

theorem wake : Statement .wake := fun c _ => ⟨rfl, c.wakeup_nonempty⟩

theorem crcPair (lo hi : Byte) : Statement (.crcPair lo hi) := fun _ _ => ⟨rfl, by simp [encode]⟩

theorem casc4 (u0 u1 u2 u3 : Byte) : Statement (.casc4 u0 u1 u2 u3) := fun _ _ => ⟨rfl, by simp [encode]⟩

theorem casc7 (u0 u1 u2 u3 u4 u5 u6 : Byte) : Statement (.casc7 u0 u1 u2 u3 u4 u5 u6) :=
  fun _ _ => ⟨rfl, by simp [encode]⟩

theorem casc10 (u0 u1 u2 u3 u4 u5 u6 u7 u8 u9 : Byte) : Statement (.casc10 u0 u1 u2 u3 u4 u5 u6 u7 u8 u9) :=
  fun _ _ => ⟨rfl, by simp [encode]⟩

end Sys2Proof.Laws.EncodeLength
end

