-- ==== Sys2Proof/Tests/Slice0.lean ====
section
/-! SUPPORT. The model's own tests. Expected results are the spec's vectors (95_test_vectors.md), each named at its test;
then a state that meets the hypotheses of each statement that has some. -/

namespace Sys2Proof.Tests

open Sys2Proof Sys2Proof.Machine

/-! ### Fixtures -/

/-- The parameter set T of 95_test_vectors.md §4.1: a test fixture, not a statement about any chip. -/
def paramsT : Params where
  maxPayload := 253
  ackFrame := [0x00, 0x00, 0xFF, 0x00, 0xFF, 0x00]
  errFrame := [0x46, 0x46, 0x30, 0x36, 0x30, 0x30]
  errTrail := 4
  wakeupFrame := [0x00, 0x00, 0xFF, 0x09, 0xF7, 0xD4, 0x00, 0x00, 0x6C, 0x69, 0x62, 0x6E, 0x66, 0x63, 0xBE, 0x00]
  probeCmd := 0x00
  probePayload := []
  lastcmdReset := 0x7E
  dcap := 16
  pcap := 253
  rxcap := 64
  maxPayload_le := by decide
  ackFrame_length := by decide
  errFrame_length := by decide
  ack_differs_err := by decide
  wakeup_nonempty := by decide
  probePayload_le := by decide
  two_le_dcap := by decide
  maxPayload_le_pcap := by decide

/-- T with MAX_PAYLOAD = 64 (vectors VF7, VC8). -/
def params64 : Params :=
  { paramsT with maxPayload := 64, maxPayload_le := by decide, probePayload_le := by decide,
                 maxPayload_le_pcap := by decide }

/-- T with ERR_TRAIL = 0 (vector VC5). -/
def paramsNoTrail : Params := { paramsT with errTrail := 0 }

/-- Register values for the tests. -/
def regs : RegDraw :=
  { len := 0, cmd := 0x02, tfi := 0xD4, cap := 16, tmo := 1000, crcr := 0, dcsr := 0, rlen := 0x77, txlen := 0,
    capl := 16, plen := 4, rtfi := 0xD5, rcc := 0x03 }

/-- An idle block with parameters T; the transport says ok four times and then times out. -/
def base : State :=
  { State.blockReset paramsT 0 regs with
    lastcmd := 0x02
    answers := [⟨[], .ok, 0⟩, ⟨[], .ok, 0⟩, ⟨[], .ok, 0⟩, ⟨[], .ok, 0⟩, ⟨[], .timeout, 0⟩] }

/-- Bytes listed from index `i` on. -/
def cells : Nat → List Byte → Memory
  | _, [] => []
  | i, b :: bs => (i, b) :: cells (i + 1) bs

/-- The state after an outcome, if it is one. -/
def after : Out → Option State
  | .next s => some s
  | .fault _ => none
  | .refused _ => none

/-- Why an outcome is a refusal. -/
def refusedBy : Out → Option Refusal
  | .next _ => none
  | .fault _ => none
  | .refused r => some r

/-- The status pair and the FSM state after an outcome. -/
def ending (o : Out) : Option (Byte × Word × Fsm) := (after o).map fun s => (s.status, s.errinfo, s.fsm)

/-- The good response frame G (95 §5). -/
def frameG : List Byte := [0x00, 0x00, 0xFF, 0x06, 0xFA, 0xD5, 0x03, 0x32, 0x01, 0x06, 0x07, 0xE8, 0x00]

/-! ### Ill-formed terms are refused -/

/-- 254 payload bytes do not fit a normal frame (R71). -/
theorem test_wf_refuses_long_command : Instr.wf paramsT (.nfH2C 0x40 (List.replicate 254 0xAB)) = false := by
  simp only [Instr.wf, List.length_replicate]; decide

theorem test_wf_refuses_long_response : Instr.wf paramsT (.nfC2H 0x41 (List.replicate 254 0xAB)) = false := by
  simp only [Instr.wf, List.length_replicate]; decide

/-- Three trailing bytes where ERR_TRAIL is 4 (R77). -/
theorem test_wf_refuses_short_error_tail : Instr.wf paramsT (.err [0x30, 0x30, 0x0D]) = false := by decide

theorem test_wf_accepts_longest : Instr.wf paramsT (.nfH2C 0x40 (List.replicate 253 0xAB)) = true := by
  simp only [Instr.wf, List.length_replicate]; decide

/-! ### Decoding: words written out from the spec's encodings -/

/-- The nine operation codes (R86). -/
theorem test_decode_crca : decodeTableWord 8 0b00000000 = some .crca := rfl

theorem test_decode_crcaApp : decodeTableWord 8 0b00000001 = some .crcaApp := rfl

theorem test_decode_crcb : decodeTableWord 8 0b00000010 = some .crcb := rfl

theorem test_decode_crcbApp : decodeTableWord 8 0b00000011 = some .crcbApp := rfl

theorem test_decode_dcs : decodeTableWord 8 0b00000100 = some .dcs := rfl

theorem test_decode_casc : decodeTableWord 8 0b00010000 = some .casc := rfl

theorem test_decode_fbuild : decodeTableWord 8 0b00100000 = some .fbuild := rfl

theorem test_decode_fcmd : decodeTableWord 8 0b00100001 = some .fcmd := rfl

theorem test_decode_frecv : decodeTableWord 8 0b00100010 = some .frecv := rfl

/-- A reserved code (R87). -/
theorem test_decode_reserved : decode paramsT .op [0x05] = .error (.reservedOpcode 0x05) := rfl

/-- NF-H2C: vector VF5. -/
theorem test_decode_nfH2C : decode paramsT .frameTx
    [0x00, 0x00, 0xFF, 0x0C, 0xF4, 0xD4, 0x4A, 0x01, 0x00, 0x88, 0x04, 0x12, 0x34, 0xAA, 0xBB, 0xCC, 0xDD, 0x01, 0x00]
      = .ok (.nfH2C 0x4A [0x01, 0x00, 0x88, 0x04, 0x12, 0x34, 0xAA, 0xBB, 0xCC, 0xDD]) := rfl

/-- NF-C2H: the frame G. -/
theorem test_decode_nfC2H : decode paramsT .frameRx frameG = .ok (.nfC2H 0x03 [0x32, 0x01, 0x06, 0x07]) := rfl

/-- ACK and ERR: vectors VC1 and VC2. -/
theorem test_decode_ack : decode paramsT .ackRx [0x00, 0x00, 0xFF, 0x00, 0xFF, 0x00] = .ok .ack := rfl

theorem test_decode_err : decode paramsT .ackRx [0x46, 0x46, 0x30, 0x36, 0x30, 0x30, 0x30, 0x30, 0x0D, 0x0A]
    = .ok (.err [0x30, 0x30, 0x0D, 0x0A]) := rfl

/-- Vector VC13: ACK_FRAME with its last byte changed is neither. -/
theorem test_decode_ack_changed : decode paramsT .ackRx [0x00, 0x00, 0xFF, 0x00, 0xFF, 0x01]
    = .error .unrecognisedAck := rfl

/-- APPERR: vector VR13, as eight bytes of a table word. -/
theorem test_decode_apperr : decodeTableWord 64 0x00817FFF01FF0000 = some (.apperr 0x7F 0x81 0x00) := rfl

/-- EXT: vector VR15. -/
theorem test_decode_ext : decodeTableWord 64 0xFD0201FFFFFF0000 = some (.ext [0x01, 0x02, 0xFD]) := rfl

set_option maxRecDepth 20000 in
/-- A full normal frame of 253 payload bytes is not the extended marker: its LCS is 0x01 (R83, vector VR20). -/
theorem test_decode_not_ext : decode paramsT .frameRx
    ([0x00, 0x00, 0xFF, 0xFF, 0x01, 0xD5, 0x41] ++ List.replicate 253 0xAB ++ [0xEB, 0x00])
      = .ok (.nfC2H 0x41 (List.replicate 253 0xAB)) := by rfl

/-- WAKE: the wake-up frame of T. -/
theorem test_decode_wake : decode paramsT .wakeTx
    [0x00, 0x00, 0xFF, 0x09, 0xF7, 0xD4, 0x00, 0x00, 0x6C, 0x69, 0x62, 0x6E, 0x66, 0x63, 0xBE, 0x00] = .ok .wake := rfl

/-- CRC-PAIR: `26 CF`, low byte first (vector VA16). -/
theorem test_decode_crcPair : decode paramsT .crcPair [0x26, 0xCF] = .ok (.crcPair 0x26 0xCF) := rfl

/-- The cascade layouts: vectors VK1, VK2, VK3. -/
theorem test_decode_casc4 : decode paramsT .cascBuf [0xA0, 0xA1, 0xA2, 0xA3] = .ok (.casc4 0xA0 0xA1 0xA2 0xA3) := rfl

theorem test_decode_casc7 : decode paramsT .cascBuf [0x88, 0xA0, 0xA1, 0xA2, 0xA3, 0xA4, 0xA5, 0xA6]
    = .ok (.casc7 0xA0 0xA1 0xA2 0xA3 0xA4 0xA5 0xA6) := rfl

theorem test_decode_casc10 : decode paramsT .cascBuf
    [0x88, 0xA0, 0xA1, 0xA2, 0x88, 0xA3, 0xA4, 0xA5, 0xA6, 0xA7, 0xA8, 0xA9]
      = .ok (.casc10 0xA0 0xA1 0xA2 0xA3 0xA4 0xA5 0xA6 0xA7 0xA8 0xA9) := rfl

/-! ### Operations -/

/-- Vector VA9. -/
theorem test_crca : (after (exec .crca { base with len := 2, dbuf := cells 0 [0x12, 0x34] })).map (·.crcr)
    = some 0xCF26 := by decide

/-- Vector VA14: "123456789". -/
theorem test_crca_check : crc16 seedA false [0x31, 0x32, 0x33, 0x34, 0x35, 0x36, 0x37, 0x38, 0x39] = 0xBF05 := by decide

/-- Vector VA18: the pair fills DBUF to its end. -/
theorem test_crcaApp : (after (exec .crcaApp { base with
      len := 14, dbuf := cells 0 [0, 1, 2, 3, 4, 5, 6, 7, 8, 9, 10, 11, 12, 13] })).map
      (fun s => (s.crcr, s.memRead .dbuf 12 4, s.rlen)) = some (0xAB11, [0x0C, 0x0D, 0x11, 0xAB], 16) := by decide

/-- Vector VA19: one byte more is refused. -/
theorem test_crcaApp_refused : refusedBy (exec .crcaApp { base with len := 15 }) = some .outsideBuffer := by decide

/-- Vector VB5. -/
theorem test_crcb : (after (exec .crcb { base with len := 1, dbuf := cells 0 [0xFF] })).map (·.crcr)
    = some 0xFF00 := by decide

/-- Vector VB1: the empty sequence. -/
theorem test_crcb_empty : (after (exec .crcb base)).map (·.crcr) = some 0x0000 := by decide

/-- Vector VB12. -/
theorem test_crcbApp : (after (exec .crcbApp { base with len := 3, dbuf := cells 0 [0x0F, 0xAA, 0xFF] })).map
      (fun s => (s.crcr, s.memRead .dbuf 0 5, s.rlen)) = some (0xD1FC, [0x0F, 0xAA, 0xFF, 0xFC, 0xD1], 5) := by decide

/-- Vector VD5. -/
theorem test_dcs : (after (exec .dcs { base with
      tfi := 0xFF, cmd := 0xFF, len := 3, pbuf := cells 0 [0xFF, 0xFF, 0xFF] })).map (·.dcsr) = some 0x05 := by decide

/-- Vector VD6: the sum is a multiple of 256. -/
theorem test_dcs_multiple : (after (exec .dcs { base with cmd := 0x2C })).map (·.dcsr) = some 0x00 := by decide

/-- Vector VK3. -/
theorem test_casc : (after (exec .casc { base with
      len := 10, uidbuf := cells 0 [0xA0, 0xA1, 0xA2, 0xA3, 0xA4, 0xA5, 0xA6, 0xA7, 0xA8, 0xA9] })).map
      (fun s => (s.memRead .cascbuf 0 12, s.rlen)) =
    some ([0x88, 0xA0, 0xA1, 0xA2, 0x88, 0xA3, 0xA4, 0xA5, 0xA6, 0xA7, 0xA8, 0xA9], 12) := by decide

/-- Vector VK9: LEN = 65535 is an error, not a refusal. -/
theorem test_casc_badLength : (after (exec .casc { base with len := 65535 })).map
      (fun s => (s.status, s.errinfo, s.rlen, s.cascbuf)) = some (0x0A, 0, 0x77, []) := by decide

/-- Vector VF2. -/
theorem test_fbuild : (after (exec .fbuild { base with cmd := 0x4A, len := 2, pbuf := cells 0 [0x01, 0x00] })).map
      (fun s => (s.memRead .txbuf 0 11, s.txlen, s.rlen, s.lastcmd)) =
    some ([0x00, 0x00, 0xFF, 0x04, 0xFC, 0xD4, 0x4A, 0x01, 0x00, 0xE1, 0x00], 11, 11, 0x4A) := by decide

/-- Vector VF7. -/
theorem test_fbuild_tooLarge : (after (exec .fbuild { base with cfg := params64, lastcmd := 0x7E, len := 65 })).map
      (fun s => (s.status, s.txlen, s.rlen, s.lastcmd)) = some (0x0B, 0, 0x77, 0x7E) := by decide

/-- Vector VC1, first step: RLEN and the status pair are not written. -/
theorem test_fcmd : (after (exec .fcmd { base with cmd := 0x4A, len := 2, pbuf := cells 0 [0x01, 0x00] })).map
      (fun s => (s.txFrame, s.fsm, s.rlen, s.lastcmd)) =
    some ([0x00, 0x00, 0xFF, 0x04, 0xFC, 0xD4, 0x4A, 0x01, 0x00, 0xE1, 0x00], .txSend, 0x77, 0x4A) := by decide

/-- Vector VR27. -/
theorem test_frecv_refused : refusedBy (exec .frecv { base with cap := 65 }) = some .outsideBuffer := by decide

/-- The first step of FRECV with CAP = RXCAP (R144). -/
theorem test_frecv : (after (exec .frecv { base with cap := 64 })).map (fun s => (s.fsm, s.capl, s.calls))
    = some (.rxHdr, 64, []) := by decide

/-! ### Wire formats -/

/-- NF-H2C is sent in TX_SEND (vector VC1); another frame is not the one to send. -/
theorem test_nfH2C : (after (exec (.nfH2C 0x02 []) { base with
      fsm := .txSend, txlen := 9, txbuf := cells 0 [0x00, 0x00, 0xFF, 0x02, 0xFE, 0xD4, 0x02, 0x2A, 0x00] })).map
      (fun s => (s.fsm, s.calls)) =
    some (.awaitAck, [.send [0x00, 0x00, 0xFF, 0x02, 0xFE, 0xD4, 0x02, 0x2A, 0x00] 1000]) := by decide

theorem test_nfH2C_other : refusedBy (exec (.nfH2C 0x02 []) base) = some .notTheFrameToSend := by decide

/-- NF-C2H in RX_HDR: vectors VR1 and VR2. -/
theorem test_nfC2H : (after (exec (.nfC2H 0x03 [0x32, 0x01, 0x06, 0x07]) { base with fsm := .rxHdr })).map
      (fun s => (s.fsm, s.plen, s.pending.length)) = some (.rxTc, 4, 8) := by decide

theorem test_nfC2H_tooBig : (after (exec (.nfC2H 0x03 [0x32, 0x01, 0x06, 0x07]) { base with
      fsm := .rxHdr, capl := 3 })).map (fun s => (s.fsm, s.status, s.pending)) =
    some (.idle, 0x08, [0xD5, 0x03, 0x32, 0x01, 0x06, 0x07, 0xE8, 0x00]) := by decide

/-- ACK in AWAIT_ACK: vector VC1. -/
theorem test_ack : (after (exec .ack { base with fsm := .awaitAck })).map (fun s => (s.status, s.rlen, s.fsm, s.pending))
    = some (0x00, 0, .idle, []) := by decide

/-- Vector VR17: ACK_FRAME met as a response. -/
theorem test_ack_in_rxHdr : (after (exec .ack { base with fsm := .rxHdr })).map (fun s => (s.status, s.fsm, s.pending))
    = some (0x03, .idle, [0x00]) := by decide

/-- ERR in AWAIT_ACK: vector VC2; in RS_ACK: vector VX3. -/
theorem test_err : (after (exec (.err [0x30, 0x30, 0x0D, 0x0A]) { base with fsm := .awaitAck })).map
    (fun s => (s.fsm, s.pending)) = some (.errDrain, [0x30, 0x30, 0x0D, 0x0A]) := by decide

theorem test_err_in_rsAck : (after (exec (.err [0x30, 0x30, 0x0D, 0x0A]) { base with fsm := .rsAck })).map (·.fsm)
    = some .rsDrain := by decide

/-- APPERR: vector VR13; its drain. -/
theorem test_apperr : (after (exec (.apperr 0x7F 0x81 0x00) { base with fsm := .rxHdr })).map
    (fun s => (s.fsm, s.pending)) = some (.appDrain, [0x7F, 0x81, 0x00]) := by decide

theorem test_apperr_drained : ending (State.blockStep { base with fsm := .appDrain, pending := [0x7F] })
    = some (0x06, 0, .idle) := by decide

/-- EXT: vector VR15. -/
theorem test_ext : (after (exec (.ext [0x01, 0x02, 0xFD]) { base with fsm := .rxHdr })).map
    (fun s => (s.status, s.fsm, s.pending)) = some (0x07, .idle, [0x01, 0x02, 0xFD]) := by decide

/-- WAKE: vector VX4, a failed wake-up send does not stop the sequence. -/
theorem test_wake : (after (exec .wake { base with fsm := .rsWake, answers := [⟨[], .timeout, 0⟩] })).map
    (fun s => (s.fsm, s.calls)) = some (.rsSend, [.send paramsT.wakeupFrame 1000]) := by decide

/-- CRC-PAIR as vector VA16 has it. -/
theorem test_crcPair : (after (exec (.crcPair 0x26 0xCF) { base with len := 2, dbuf := cells 0 [0x12, 0x34] })).map
    (fun s => (s.crcr, s.memRead .dbuf 0 4, s.rlen)) = some (0xCF26, [0x12, 0x34, 0x26, 0xCF], 4) := by decide

/-- The cascade layouts: vectors VK1, VK2, VK3. -/
theorem test_casc4 : (after (exec (.casc4 0xA0 0xA1 0xA2 0xA3) base)).map (fun s => (s.memRead .cascbuf 0 4, s.rlen))
    = some ([0xA0, 0xA1, 0xA2, 0xA3], 4) := by decide

theorem test_casc7 : (after (exec (.casc7 0xA0 0xA1 0xA2 0xA3 0xA4 0xA5 0xA6) base)).map
    (fun s => (s.memRead .cascbuf 0 8, s.rlen)) = some ([0x88, 0xA0, 0xA1, 0xA2, 0xA3, 0xA4, 0xA5, 0xA6], 8) := by decide

theorem test_casc10 : (after (exec (.casc10 0xA0 0xA1 0xA2 0xA3 0xA4 0xA5 0xA6 0xA7 0xA8 0xA9) base)).map (·.rlen)
    = some 12 := by decide

/-! ### The steps of the state machine -/

/-- Vector VC6: neither constant. -/
theorem test_awaitAck_other : ending (State.blockStep { base with
    fsm := .awaitAck, pending := [0x00, 0x00, 0xFF, 0xFF, 0x00, 0x00] }) = some (0x02, 0, .idle) := by decide

/-- Vector VC9: the transport's value is handed on. -/
theorem test_txSend_fails : ending (State.blockStep { base with
    fsm := .txSend, txlen := 0, answers := [⟨[], .error 0xDEAD, 0⟩] }) = some (0x02, 0xDEAD, .idle) := by decide

/-- Vectors VR11 and VR16: the header. -/
theorem test_rxHdr_lcs : ending (State.blockStep { base with
    fsm := .rxHdr, pending := [0x00, 0x00, 0xFF, 0x06, 0xFB] }) = some (0x03, 0, .idle) := by decide

theorem test_rxHdr_len0 : ending (State.blockStep { base with
    fsm := .rxHdr, pending := [0x00, 0x00, 0xFF, 0x00, 0x00] }) = some (0x03, 0, .idle) := by decide

/-- Vector VR7: one bit of the command code. -/
theorem test_rxTc_code : ending (State.blockStep { base with fsm := .rxTc, pending := [0xD5, 0x83] })
    = some (0x09, 0, .idle) := by decide

/-- Vector VR18: the code after 0xFF is 0x00. -/
theorem test_rxTc_wraps : (after (State.blockStep { base with
    fsm := .rxTc, lastcmd := 0xFF, pending := [0xD5, 0x00] })).map (·.fsm) = some .rxPayload := by decide

/-- Vector VR22: a failed payload receive leaves what follows PLEN as it was. -/
theorem test_rxPayload_fails : (after (State.blockStep { base with
    fsm := .rxPayload, pending := [0x32, 0x01], rxbuf := cells 4 [0xEE, 0xEE] })).map
    (fun s => (s.status, s.fsm, s.rlen, s.memRead .rxbuf 4 2)) = some (0x01, .idle, 0x77, [0xEE, 0xEE]) := by decide

/-- Vectors VR1, VR9 and VR10: the trailer. -/
theorem test_rxTrailer : (after (State.blockStep { base with
    fsm := .rxTrailer, pending := [0xE8, 0x00], rxbuf := cells 0 [0x32, 0x01, 0x06, 0x07] })).map
    (fun s => (s.status, s.rlen, s.lastcmd)) = some (0x00, 4, 0x03) := by decide

theorem test_rxTrailer_dcs_first : ending (State.blockStep { base with
    fsm := .rxTrailer, pending := [0xF8, 0x01], rxbuf := cells 0 [0x32, 0x01, 0x06, 0x07] })
    = some (0x04, 0, .idle) := by decide

/-- Vector VX8: the abort wins and the bytes stay. -/
theorem test_abort_wins : (after (State.blockStep { base with fsm := .rxTc, abortp := true, pending := [0xD5, 0x4B] })).map
    (fun s => (s.fsm, s.abortp, s.pending, s.calls)) = some (.rsWake, false, [0xD5, 0x4B], []) := by decide

/-- Vector VX7: not enabled in AWAIT_ACK. -/
theorem test_abort_dropped : (after (step { base with fsm := .awaitAck, agenda := [.abort] })).map (·.abortp)
    = some false := by decide

/-- Vector VX5: the probe's send fails; the probe frame is in TXBUF. -/
theorem test_rsSend_fails : (after (State.blockStep { base with
    fsm := .rsSend, answers := [⟨[], .error 9, 0⟩] })).map (fun s => (s.status, s.errinfo, s.txFrame)) =
    some (0x0D, 0, [0x00, 0x00, 0xFF, 0x02, 0xFE, 0xD4, 0x00, 0x2C, 0x00]) := by decide

/-- A HOST write during an operation is refused (R240). -/
theorem test_hostWrite_busy : refusedBy (step { base with fsm := .txSend, agenda := [.host (.len 1)] })
    = some .hostWriteBusy := by decide

/-- The HOST reads a buffer byte by byte up to its capacity, also what nothing has written (R34, R30). -/
theorem test_hostView : (base.hostView.cascbuf.length, { base with dbuf := cells 3 [0x5A] }.hostView.dbuf[3]?) =
    (12, some 0x5A) := by decide

theorem test_hostView_unwritten : base.hostView.uidbuf[9]? = some (Config.powerOnByte 0 .uidbuf 9) := rfl

/-- A reserved code is refused (R87). -/
theorem test_reserved : refusedBy (step { base with agenda := [.start 0x05] }) = some (.reservedOpcode 0x05) := by decide

/-! ### An instruction put where the next step takes it -/

/-- CRCA.APP after the bytes whose CRC the pair is (R84; log 3). -/
theorem test_present_crcPair : (after (step (base.present (.crcPair 0x26 0xCF) [0x26, 0xCF]))).map
    (fun s => (s.crcr, s.memRead .dbuf 2 2)) = some (0xCF26, [0x26, 0xCF]) := by decide

theorem test_present_wake : (after (step (base.present .wake paramsT.wakeupFrame))).map (·.calls)
    = some [.send paramsT.wakeupFrame 1000] := by decide

theorem test_present_casc7 : (after (step (base.present (.casc7 0x04 0x12 0x34 0xAA 0xBB 0xCC 0xDD) []))).map
    (fun s => s.memRead .cascbuf 0 8) = some [0x88, 0x04, 0x12, 0x34, 0xAA, 0xBB, 0xCC, 0xDD] := by decide

/-! ### The descriptor decoder -/

/-- Masks for the tests, each flag a bit of its own: a fixture, since the source prints none (log 20). -/
def masks : Descriptor.Masks where
  sakCascade := 0x04
  sakIso14443_4 := 0x20
  sakIso18092 := 0x40
  ta1 := ⟨0x80, [0x01, 0x02, 0x04]⟩
  tc1Nad := 0x01
  tc1Cid := 0x02
  bRates := ⟨⟨0x01, 0x02, 0x04⟩, ⟨0x10, 0x20, 0x40⟩, 0x80⟩
  bNad := 0x02
  bCid := 0x01
  chipType := ⟨0, 0xF0, 4⟩
  memorySize := ⟨0, 0x0F, 0⟩
  cardStatus := ⟨1, 0xF0, 4⟩
  generation := ⟨1, 0x0F, 0⟩
  virtualCard := ⟨2, 0x0F, 0⟩

/-- The ATQA of the source's example (R195) and an ATS whose T0 announces TB1 only: FWI 7, SFGI 1, one historical byte. -/
theorem test_decodeA : Descriptor.decodeA masks [0xA0, 0xA1, 0xA2, 0xA3] 0x00 0x04 0x20 [0x28, 0x71, 0x80] =
    .ok (.iso14443a [0xA0, 0xA1, 0xA2, 0xA3] 0x00 0x04 0x20 [0x28, 0x71, 0x80]
      { uidClass := .single, anticollision := 0x04, anticollisionOk := true, cascadeIncomplete := false, iso14443_4 := true,
        iso18092 := false,
        ats := some { fsci := 8, maxFrame := 256, ta1 := none, tb1 := some 0x71, tc1 := none, historical := [0x80] },
        ta1Flags := none, fwt := some 524288, sfgi := some 1, nad := none, cid := none,
        category := some (.compactTlv 0x80) }) := by decide

/-- R193: the frame size of index 9 is 16; the flags of `protocol_info[0]`, each by its own mask. -/
theorem test_decodeB : Descriptor.decodeB masks [1, 2, 3, 4] [5, 6, 7, 8] 0x91 0x91 0x42 =
    .iso14443b [1, 2, 3, 4] [5, 6, 7, 8] 0x91 0x91 0x42
      { rates := ⟨⟨true, false, false⟩, ⟨true, false, false⟩, true⟩, maxFrame := 16, iso14443_4 := true, fwt := 65536,
        nad := true, cid := false } := by decide

/-- R192, the 0xC1 form, with the nibbles of `masks`; the third byte is missing. -/
theorem test_category_c1 : Descriptor.category masks [0xC1, 0x12, 0x34] =
    some (.proprietaryC1 (some 1) (some 2) (some 3) (some 4) none) := by decide

theorem test_target_wf : Descriptor.Target.wf (Descriptor.decodeB masks [1, 2, 3] [5, 6, 7, 8] 0 0 0) = false := by decide

/-! ### States and operands that meet the hypotheses of the statements -/

/-- A state with an event at the head of the agenda. -/
def before (e : Event) (s : State) : State := { s with agenda := [e] }

theorem witness_StartRunsTheDecodedOperation :
    (before (.start 0x22) base).agenda = .start 0x22 :: [] ∧ decode paramsT .op [0x22] = .ok .frecv ∧
      (before (.start 0x23) base).agenda = .start 0x23 :: [] ∧ (∀ i, decode paramsT .op [0x23] ≠ .ok i) :=
  ⟨rfl, rfl, rfl, fun _ h => by cases h⟩

theorem witness_WireRunsTheDecodedFormat :
    (before (.wire frameG) base).agenda = .wire frameG :: [] ∧
      decode paramsT .frameRx frameG = .ok (.nfC2H 0x03 [0x32, 0x01, 0x06, 0x07]) ∧
      (before (.wire paramsT.ackFrame) base).agenda = .wire paramsT.ackFrame :: [] ∧
      decode paramsT .ackRx paramsT.ackFrame = .ok .ack := ⟨rfl, rfl, rfl, rfl⟩

/-- A block in TX_SEND whose built frame is that of vector VF1. -/
def sending : State :=
  { base with fsm := .txSend, txlen := 9, txbuf := cells 0 [0x00, 0x00, 0xFF, 0x02, 0xFE, 0xD4, 0x02, 0x2A, 0x00] }

theorem witness_BlockStepRunsTheSentFormat :
    sending.agenda = [] ∧ sending.frameToSend = some (encode paramsT (.nfH2C 0x02 [])) ∧
      ({ base with fsm := .rsWake } : State).agenda = [] ∧ ({ base with fsm := .rsWake } : State).fsm = .rsWake := by
  decide

/-- The events: a byte that is no format is neither an acknowledge nor a response. -/
theorem witness_BlockStepRunsTheSentFormat_events :
    (before .block sending).agenda = .block :: [] ∧ (before (.arrive [0xD5]) base).agenda = .arrive [0xD5] :: [] ∧
      (before (.wire [0xD5]) base).agenda = .wire [0xD5] :: [] ∧ (∀ i, decode paramsT .ackRx [0xD5] ≠ .ok i) ∧
      (∀ i, decode paramsT .frameRx [0xD5] ≠ .ok i) :=
  ⟨rfl, rfl, rfl, (fun _ h => by cases h), (fun _ h => by cases h)⟩

theorem witness_DecodeAfterEncode :
    Instr.wf paramsT (.nfC2H 0xFF (List.replicate 253 0xAB)) = true ∧ Instr.wf paramsT (.nfH2C 0x00 []) = true ∧
      Instr.wf paramsT (.err [0x30, 0x30, 0x0D, 0x0A]) = true ∧ Instr.wf paramsNoTrail (.err []) = true := by
  refine ⟨?_, rfl, rfl, rfl⟩
  simp only [Instr.wf, List.length_replicate]
  decide

theorem witness_EncodeAfterDecode : decode paramsT .frameRx frameG = .ok (.nfC2H 0x03 [0x32, 0x01, 0x06, 0x07]) := rfl

theorem witness_NormalFrameLayout :
    (List.replicate 253 (0xAB : Byte)).length ≤ 253 ∧ ([] : List Byte).length ≤ 253 ∧
      frameG = encode paramsT (.nfC2H 0x03 [0x32, 0x01, 0x06, 0x07]) := by
  refine ⟨?_, by decide, rfl⟩
  simp only [List.length_replicate]
  decide

/-- Row 1 of the trace of 95 §2.1: crc 0x6363, data 0x12. -/
theorem witness_CrcFoldsTheRecurrence :
    0x71 = (0x12 : Byte).toNat ^^^ ((0x6363 : Half).toNat % 256) ∧ 0x61 = (0x71 ^^^ (0x71 <<< 4)) % 256 := by decide

/-- A state that is not IDLE, LEN = DCAP + 1, LEN = DCAP. -/
theorem witness_CrcaResult :
    ({ base with fsm := .txSend } : State).fsm ≠ .idle ∧ base.fsm = .idle ∧ paramsT.dcap < (17 : Half).toNat ∧
      (16 : Half).toNat ≤ paramsT.dcap := by decide

theorem witness_CrcbResult :
    ({ base with fsm := .rsDrain } : State).fsm ≠ .idle ∧ base.fsm = .idle ∧ paramsT.dcap < (17 : Half).toNat ∧
      (16 : Half).toNat ≤ paramsT.dcap := by decide

/-- LEN + 2 = DCAP. -/
theorem witness_CrcAppendResult :
    ({ base with len := 14 } : State).fsm = .idle ∧ ({ base with len := 14 } : State).len.toNat + 2 ≤ paramsT.dcap := by
  decide

theorem witness_AppendThenRecompute :
    ({ base with len := 14 } : State).len.toNat + 2 ≤ paramsT.dcap ∧
      (after (exec .crcaApp { base with len := 14, dbuf := cells 0 (List.replicate 14 0) })).isSome = true ∧
      (after (exec .crcbApp { base with len := 14, dbuf := cells 0 (List.replicate 14 0) })).isSome = true := by decide

/-- LEN = PCAP + 1, LEN = PCAP. -/
theorem witness_DcsResult :
    ({ base with fsm := .rxHdr } : State).fsm ≠ .idle ∧ base.fsm = .idle ∧ paramsT.pcap < (254 : Half).toNat ∧
      (253 : Half).toNat ≤ paramsT.pcap := by decide

theorem witness_CrcPairIsLaidDown :
    ({ base with len := 0 } : State).fsm = .idle ∧ ({ base with len := 0 } : State).len.toNat + 2 ≤ paramsT.dcap := by decide

/-- The three lengths, and a length beside each of them. -/
theorem witness_CascEncodesTheUid :
    ({ base with fsm := .rxTc } : State).fsm ≠ .idle ∧ base.fsm = .idle ∧
      ({ base with len := 4 } : State).len.toNat = 4 ∧ ({ base with len := 7 } : State).len.toNat = 7 ∧
      ({ base with len := 10 } : State).len.toNat = 10 ∧
      (∀ n ∈ [3, 5, 6, 8, 9, 11], ({ base with len := BitVec.ofNat 16 n } : State).len.toNat ≠ 4 ∧
        ({ base with len := BitVec.ofNat 16 n } : State).len.toNat ≠ 7 ∧
        ({ base with len := BitVec.ofNat 16 n } : State).len.toNat ≠ 10) := by decide

/-- A block whose UIDBUF is that of 95 §3. -/
def withUid (n : Half) : State :=
  { base with len := n, uidbuf := cells 0 [0xA0, 0xA1, 0xA2, 0xA3, 0xA4, 0xA5, 0xA6, 0xA7, 0xA8, 0xA9] }

theorem witness_CascadeLayoutsAreLaidDown :
    (withUid 4).fsm = .idle ∧ (withUid 4).len = 4 ∧ (withUid 4).memRead .uidbuf 0 4 = [0xA0, 0xA1, 0xA2, 0xA3] ∧
      (withUid 7).len = 7 ∧ (withUid 7).memRead .uidbuf 0 7 = [0xA0, 0xA1, 0xA2, 0xA3, 0xA4, 0xA5, 0xA6] ∧
      (withUid 10).len = 10 ∧
      (withUid 10).memRead .uidbuf 0 10 = [0xA0, 0xA1, 0xA2, 0xA3, 0xA4, 0xA5, 0xA6, 0xA7, 0xA8, 0xA9] := by decide

/-- LEN = MAX_PAYLOAD. -/
theorem witness_FbuildBuildsTheFrame :
    ({ base with len := 253 } : State).fsm = .idle ∧ ({ base with len := 253 } : State).len.toNat ≤ paramsT.maxPayload := by
  decide

theorem witness_FcmdBuildsThenSends :
    ({ base with cfg := params64, len := 64 } : State).fsm = .idle ∧
      ({ base with len := 64 } : State).len.toNat ≤ params64.maxPayload := by decide

/-- LEN = MAX_PAYLOAD + 1. -/
theorem witness_BuildRejectsLongPayload :
    ({ base with cfg := params64, len := 65 } : State).fsm = .idle ∧ params64.maxPayload < (65 : Half).toNat ∧
      paramsT.maxPayload < (254 : Half).toNat := by decide

theorem witness_TxSendStep :
    sending.fsm = .txSend ∧ sending.txlen.toNat ≤ 262 ∧ sending.sendFails = none ∧
      ({ sending with txlen := 262 } : State).txlen.toNat ≤ 262 ∧
      ({ sending with answers := [⟨[], .timeout, 0⟩] } : State).sendFails = some .timeout ∧
      ({ sending with answers := [⟨[], .error 9, 0⟩] } : State).sendFails = some (.error 9) := by decide

/-- A block in a state, with the stream given. -/
def waiting (f : Fsm) (stream : List Byte) : State := { base with fsm := f, pending := stream }

/-- The same under parameters whose ErrorFrame has no trailing bytes. -/
def waitingNoTrail (f : Fsm) (stream : List Byte) : State := { waiting f stream with cfg := paramsNoTrail }

/-- A block in a state, whose next call fails. -/
def failing (f : Fsm) (v : Verdict) : State := { base with fsm := f, answers := [⟨[], v, 0⟩] }

theorem witness_AwaitAckStep :
    (waiting .awaitAck []).fsm = .awaitAck ∧
      (waiting .awaitAck paramsT.ackFrame).recvReply 6 = .ok paramsT.ackFrame ∧
      (waiting .awaitAck (paramsT.errFrame ++ [0x30])).recvReply 6 = .ok paramsT.errFrame ∧
      (waiting .awaitAck [1, 2, 3, 4, 5, 6]).recvReply 6 = .ok [1, 2, 3, 4, 5, 6] ∧
      (failing .awaitAck .timeout).recvReply 6 = .error .timeout ∧
      (failing .awaitAck (.error 7)).recvReply 6 = .error (.error 7) ∧
      (waitingNoTrail .awaitAck paramsT.errFrame).cfg.errTrail = 0 ∧
      (waitingNoTrail .awaitAck paramsT.errFrame).recvReply 6 =
        .ok (waitingNoTrail .awaitAck paramsT.errFrame).cfg.errFrame := ⟨rfl, rfl, rfl, rfl, rfl, rfl, rfl, rfl⟩

theorem witness_DrainsKeepTheirError :
    (waiting .errDrain []).fsm = .errDrain ∧ (waiting .appDrain []).fsm = .appDrain ∧
      (waiting .rsDrain []).fsm = .rsDrain := by decide

/-- CAP = RXCAP + 1, CAP = RXCAP. -/
theorem witness_FrecvStarts :
    ({ base with fsm := .awaitAck } : State).fsm ≠ .idle ∧ base.fsm = .idle ∧ paramsT.rxcap < (65 : Half).toNat ∧
      (64 : Half).toNat ≤ paramsT.rxcap := by decide

/-- Headers at the borders of the chain: LEN 1 with each LCS, LEN 2, LEN 0xFF with each LCS, LEN 0; then
LEN - 2 = CAPL and CAPL + 1. -/
theorem witness_RxHdrStep :
    (waiting .rxHdr []).fsm = .rxHdr ∧ (waiting .rxHdr []).abortp = false ∧
      ∀ h ∈ [[0x00, 0x00, 0xFE, 0x06, 0xFA], [0x00, 0x00, 0xFF, 0x01, 0xFF], [0x00, 0x00, 0xFF, 0x01, 0xFE],
             [0x00, 0x00, 0xFF, 0x02, 0xFE], [0x00, 0x00, 0xFF, 0xFF, 0xFF], [0x00, 0x00, 0xFF, 0xFF, 0x01],
             ([0x00, 0x00, 0xFF, 0x00, 0x00] : List Byte), [0x00, 0x00, 0xFF, 0x12, 0xEE],
             [0x00, 0x00, 0xFF, 0x13, 0xED]],
        (waiting .rxHdr h).recvReply 5 = .ok h := by
  refine ⟨rfl, rfl, ?_⟩
  intro h hm
  simp only [List.mem_cons, List.not_mem_nil, or_false] at hm
  obtain rfl | rfl | rfl | rfl | rfl | rfl | rfl | rfl | rfl := hm <;> rfl

theorem witness_RxHdrStep_capacity :
    (0x12 : Byte).toNat - 2 = (waiting .rxHdr []).capl.toNat ∧ (0x13 : Byte).toNat - 2 = (waiting .rxHdr []).capl.toNat + 1 ∧
      ((0x12 : Byte).toNat + (0xEE : Byte).toNat) % 256 = 0 ∧ ((0x13 : Byte).toNat + (0xED : Byte).toNat) % 256 = 0 := by
  decide

theorem witness_RxTcStep :
    (waiting .rxTc [0xD5, 0x03]).fsm = .rxTc ∧ (waiting .rxTc [0xD5, 0x03]).abortp = false ∧
      (waiting .rxTc [0xD5, 0x03]).recvReply 2 = .ok [0xD5, 0x03] ∧
      ({ waiting .rxTc [0xD5, 0x00] with lastcmd := 0xFF, plen := 0 } : State).recvReply 2 = .ok [0xD5, 0x00] :=
  ⟨rfl, rfl, rfl, rfl⟩

theorem witness_RxPayloadStep :
    (waiting .rxPayload [1, 2, 3, 4]).fsm = .rxPayload ∧ (waiting .rxPayload [1, 2, 3, 4]).abortp = false ∧
      (waiting .rxPayload [1, 2, 3, 4]).plen.toNat ≤ paramsT.rxcap ∧
      (waiting .rxPayload [1, 2, 3, 4]).recvReply 4 = .ok [1, 2, 3, 4] := ⟨rfl, rfl, by decide, rfl⟩

theorem witness_RxTrailerStep :
    (waiting .rxTrailer [0xE8, 0x00]).fsm = .rxTrailer ∧ (waiting .rxTrailer [0xE8, 0x00]).abortp = false ∧
      (waiting .rxTrailer [0xE8, 0x00]).plen.toNat ≤ paramsT.rxcap ∧
      (waiting .rxTrailer [0xE8, 0x00]).recvReply 2 = .ok [0xE8, 0x00] := ⟨rfl, rfl, by decide, rfl⟩

theorem witness_FailedReceiveStep :
    (failing .rxHdr .timeout).abortp = false ∧ (failing .rxHdr .timeout).recvReply 5 = .error .timeout ∧
      (failing .rxTc (.error 0x55)).recvReply 2 = .error (.error 0x55) ∧
      (failing .rxPayload .timeout).recvReply 4 = .error .timeout ∧
      (failing .rxPayload .timeout).plen.toNat ≤ paramsT.rxcap ∧
      (failing .rxTrailer .timeout).recvReply 2 = .error .timeout := ⟨rfl, rfl, rfl, rfl, by decide, rfl⟩

theorem witness_AbortEventIsLatchedOrDropped :
    (before .abort (waiting .rxHdr [])).agenda = .abort :: [] ∧ (before .abort (waiting .rxHdr [])).fsm = .rxHdr ∧
      (before .abort (waiting .appDrain [])).agenda = .abort :: [] ∧
      (before .abort (waiting .appDrain [])).fsm ≠ .rxHdr ∧ (before .abort (waiting .appDrain [])).fsm ≠ .rxTc ∧
      (before .abort (waiting .appDrain [])).fsm ≠ .rxPayload ∧
      (before .abort (waiting .appDrain [])).fsm ≠ .rxTrailer := by decide

/-- A block in RX_TRAILER with an abort pending. -/
def aborted : State := { waiting .rxTrailer [] with abortp := true }

theorem witness_PendingAbortIsTaken : aborted.abortp = true ∧ aborted.fsm = .rxTrailer := by decide

theorem witness_ResyncSteps :
    (waiting .rsWake []).fsm = .rsWake ∧ (waiting .rsAck []).fsm = .rsAck ∧ (waiting .rsSend []).fsm = .rsSend ∧
      (waiting .rsSend []).sendFails = none ∧ (failing .rsSend .timeout).sendFails ≠ none ∧
      (waiting .rsAck paramsT.errFrame).recvReply 6 = .ok paramsT.errFrame ∧ 0 < paramsT.errTrail :=
  ⟨rfl, rfl, rfl, rfl, by decide, rfl, by decide⟩

theorem witness_TransportPrimitives :
    (1 : Nat) ≤ 2 ∧ (waiting .rxTc [1, 2, 3]).recvReply 2 = .ok [1, 2] ∧
      (waiting .rxTc [1]).recvReply 2 = .error .timeout := ⟨by decide, rfl, rfl⟩

/-- An outcome that is a next state equals it. -/
theorem next_of_after {o : Out} {t : State} (h : after o = some t) : o = .next t := by
  cases o <;> simp_all [after]

theorem witness_AtMostOneCallPerStep :
    step (waiting .errDrain []) = .next (((waiting .errDrain []).afterRecv 4).raise .protocolError 0) := rfl

theorem witness_FormatsArriveWhenNothingWaits :
    isReceived (.apperr 0x7F 0x81 0x00) = true ∧ base.fsm = .idle ∧ isReceived .ack = true ∧
      (waiting .rxTc [0xD5]).fsm ≠ .idle ∧ (waiting .rxTc [0xD5]).fsm ≠ .txSend ∧ (waiting .rxTc [0xD5]).fsm ≠ .rsWake ∧
      (waiting .rxTc [0xD5]).fsm ≠ .rsSend := by decide

theorem witness_AcknowledgeFormats :
    (waiting .awaitAck []).pending = [] ∧ (waiting .awaitAck []).answers = ⟨[], .ok, 0⟩ :: base.answers.tail ∧
      (waiting .awaitAck []).fsm = .awaitAck ∧ (waiting .rsAck []).pending = [] ∧
      (waiting .rsAck []).answers = ⟨[], .ok, 0⟩ :: base.answers.tail ∧ (waiting .rsAck []).fsm = .rsAck := by decide

theorem witness_ResponseFormatsInRxHdr :
    (waiting .rxHdr []).pending = [] ∧ (waiting .rxHdr []).answers = ⟨[], .ok, 0⟩ :: base.answers.tail ∧
      (waiting .rxHdr []).fsm = .rxHdr ∧ (waiting .rxHdr []).abortp = false ∧
      ([0x32, 0x01, 0x06, 0x07] : List Byte).length ≤ 253 := by decide

theorem witness_SentFormatsAreSent :
    sending.fsm = .txSend ∧ sending.txlen.toNat ≤ 262 ∧ sending.sendFails = none ∧
      sending.memRead .txbuf 0 sending.txlen.toNat = encode paramsT (.nfH2C 0x02 []) ∧
      (waiting .rsSend []).fsm = .rsSend ∧ (waiting .rsSend []).cfg.probeCmd = 0x00 ∧
      (waiting .rsSend []).cfg.probePayload = [] ∧ (waiting .rsWake []).fsm = .rsWake := by decide

/-- Another command code than the built frame's and than the probe's. -/
theorem witness_SentFormatsAreSent_refused :
    ¬ (sending.fsm = .txSend ∧ sending.memRead .txbuf 0 sending.txlen.toNat = encode paramsT (.nfH2C 0x03 [])) ∧
      ¬ (sending.fsm = .rsSend) ∧ ¬ ((waiting .rsSend []).fsm = .txSend) ∧
      ¬ (buildFrame paramsT.probeCmd paramsT.probePayload = encode paramsT (.nfH2C 0x03 [])) ∧ sending.fsm ≠ .rsWake := by
  decide

theorem witness_BusyBlockRefuses :
    isOperation .dcs = true ∧ isLayout (.crcPair 0x26 0xCF) = true ∧ (waiting .rxHdr []).fsm ≠ .idle := by decide

/-- Each capacity passed by one, and a layout. -/
theorem witness_OutsideBufferIsRefused :
    Instr.port (.casc4 1 2 3 4) = .cascBuf ∧
    base.fsm = .idle ∧ paramsT.dcap < (17 : Half).toNat ∧ paramsT.dcap < (15 : Half).toNat + 2 ∧
      paramsT.pcap < (254 : Half).toNat ∧ paramsT.rxcap < (65 : Half).toNat := by decide

theorem witness_HostWritesInIdleOnly :
    (before (.host (.bytes .rxbuf 62 [1, 2])) base).agenda = .host (.bytes .rxbuf 62 [1, 2]) :: [] ∧
      (before (.host (.bytes .rxbuf 62 [1, 2])) base).fsm = .idle ∧ 62 + 2 ≤ bufCapacity paramsT .rxbuf ∧
      bufCapacity paramsT .rxbuf < 63 + 2 ∧ (before (.host (.len 1)) (waiting .rxHdr [])).fsm ≠ .idle := by decide

theorem witness_ResetEventGivesResetValues :
    (before .reset (waiting .rxHdr [])).agenda = .reset :: [] := rfl

/-- A good state in RX_TRAILER, with the payload of G received. -/
def goodTrailer : State := { waiting .rxTrailer [0xE8, 0x00] with rxbuf := cells 0 [0x32, 0x01, 0x06, 0x07] }

theorem goodTrailer_inv : goodTrailer.Inv where
  abort_pending := by decide
  status_code := by decide
  errinfo_zero := by decide
  buffers := by intro b; cases b <;> decide
  tx_frame := by decide
  rx_room := by decide
  rx_fits := by decide
  rx_payload := by decide
  rx_code := by decide
  drain := by decide

theorem witness_StepKeepsTheInvariant :
    goodTrailer.Inv ∧
      step goodTrailer = .next { (goodTrailer.afterRecv 2).doneLen 4 with lastcmd := 0x03 } := ⟨goodTrailer_inv, rfl⟩

theorem witness_BlockStepMakesProgress : goodTrailer.Inv ∧ goodTrailer.fsm ≠ .idle := ⟨goodTrailer_inv, by decide⟩

/-- The same block with the CANCELLER, the chip and the BLOCK still to act. -/
def goodInterrupted : State := { goodTrailer with agenda := [.abort, .arrive [0x00], .block, .wire frameG] }

theorem goodInterrupted_inv : goodInterrupted.Inv where
  abort_pending := by decide
  status_code := by decide
  errinfo_zero := by decide
  buffers := by intro b; cases b <;> decide
  tx_frame := by decide
  rx_room := by decide
  rx_fits := by decide
  rx_payload := by decide
  rx_code := by decide
  drain := by decide

theorem witness_EveryOperationReturnsToIdle :
    goodTrailer.Inv ∧ goodTrailer.agenda = [] ∧ goodInterrupted.Inv ∧
      ∀ e ∈ goodInterrupted.agenda, e = .block ∨ e = .abort ∨ (∃ bs, e = .arrive bs) ∨ ∃ bs, e = .wire bs := by
  refine ⟨goodTrailer_inv, rfl, goodInterrupted_inv, ?_⟩
  intro e he
  simp only [goodInterrupted, List.mem_cons, List.not_mem_nil, or_false] at he
  obtain rfl | rfl | rfl | rfl := he <;> simp

theorem witness_OnlyTheseWriteLastcmd :
    step goodTrailer = .next { (goodTrailer.afterRecv 2).doneLen 4 with lastcmd := 0x03 } ∧
      (0x03 : Byte) ≠ goodTrailer.lastcmd := ⟨rfl, by decide⟩

theorem witness_StatusIsWrittenAtTheEnd :
    goodTrailer.fsm ≠ .idle ∧
      goodTrailer.blockStep = .next { (goodTrailer.afterRecv 2).doneLen 4 with lastcmd := 0x03 } ∧
      step (failing .rxTc .timeout) = .next (((failing .rxTc .timeout).afterRecv 2).raise .timeout 0) ∧
      (((failing .rxTc .timeout).afterRecv 2).raise .timeout 0).status ≠ (failing .rxTc .timeout).status :=
  ⟨by decide, rfl, rfl, by decide⟩

theorem witness_ChecksumAndCascadeLeaveTheCodec : exec .dcs base = .next { base.done with dcsr := 0x2A } := by
  refine next_of_after ?_
  decide

theorem witness_LatchesAreHidden :
    isOperation .frecv = true ∧ exec .frecv base = .next { base with capl := 16, fsm := .rxHdr } ∧
      15 < bufCapacity base.cfg .dbuf := ⟨rfl, rfl, by decide⟩

/-- The frame G, an FRECV about to be started, four receives that succeed (vector VR3: CAP is the payload's length). -/
def exchange : State := { before (.start 0x22) base with cap := 4, pending := frameG }

theorem witness_FrameRoundTrip :
    exchange.fsm = .idle ∧ exchange.abortp = false ∧ exchange.agenda = [.start 0x22] ∧ exchange.cap.toNat = 4 ∧
      exchange.cap.toNat ≤ exchange.cfg.rxcap ∧
      exchange.pending = encode exchange.cfg (.nfC2H (exchange.lastcmd + 1) [0x32, 0x01, 0x06, 0x07]) ++ [] ∧
      exchange.answers = ⟨[], .ok, 0⟩ :: ⟨[], .ok, 0⟩ :: ⟨[], .ok, 0⟩ :: ⟨[], .ok, 0⟩ :: [⟨[], .timeout, 0⟩] := by decide

/-- Vectors VR6, VR7, VR5 and VR8: the first and the last byte of each range. -/
theorem witness_CorruptionIsDetected :
    ∀ p ∈ [(5, 0xD4), (6, 0x83), (7, 0x33), (8, 0x00), (10, 0x06), (11, (0xF8 : Byte))],
      5 ≤ p.1 ∧ p.1 < 4 + 8 ∧
        (encode exchange.cfg (.nfC2H (exchange.lastcmd + 1) [0x32, 0x01, 0x06, 0x07]))[p.1]? ≠ some p.2 := by decide

theorem witness_PendingAbortEndsAborted : aborted.abortp = true ∧ aborted.fsm = .rxTrailer ∧ aborted.agenda = [] := by decide

/-- T0 = 0x75 announces three bytes: two are too few, three are enough. -/
theorem witness_AtsLayout :
    (3 : Nat) = ((0x75 : Byte).getLsbD 4).toNat + ((0x75 : Byte).getLsbD 5).toNat + ((0x75 : Byte).getLsbD 6).toNat ∧
      ([0x77, 0x81] : List Byte).length < 3 ∧ 3 ≤ ([0x77, 0x81, 0x02] : List Byte).length := by decide

/-- T0 = 0x28 announces TB1: without it; with it, and no historical byte or one of each category; and no ATS. -/
theorem witness_DecodersReturnTheTarget :
    Descriptor.decodeAts 0x28 [] = .error .malformedDescriptor ∧
      (∀ h ∈ [[], [0x80], [0xC1, 0x12, 0x34], ([0x81] : List Byte)], Descriptor.decodeAts 0x28 (0x71 :: h) =
        .ok { fsci := 8, maxFrame := 256, ta1 := none, tb1 := some 0x71, tc1 := none, historical := h }) ∧
      (([] : List Byte) = [] ∧ (none : Option Descriptor.Ats) = none) := by decide

end Sys2Proof.Tests
end

