-- ==== Sys2Proof/Proofs/Scope.lean ====
section
/-! PROOF. The transport calls of one step (00_scope R12, 20_memory R66): an operation's first step, a HOST write, the
abort and the reset make none; a BLOCK step makes at most one, with TMO as it stands. -/

namespace Sys2Proof.Machine

namespace State

@[simp] theorem layProbe_calls (s : State) : s.layProbe.calls = s.calls := rfl
@[simp] theorem layProbe_tmo (s : State) : s.layProbe.tmo = s.tmo := rfl
@[simp] theorem loseRxPayload_calls (s : State) : s.loseRxPayload.calls = s.calls := rfl
@[simp] theorem onPayload_calls (s : State) (bs : List Byte) : (s.onPayload bs).calls = s.calls := rfl
@[simp] theorem cancel_calls (s : State) : s.cancel.calls = s.calls := by unfold State.cancel; split <;> rfl
@[simp] theorem resetEvent_calls (s : State) : s.resetEvent.calls = s.calls := rfl

end State

/-- The record of calls of `t` is that of `s`, or has one call more, made with the TMO of `s`. -/
def AtMostOneCall (s t : State) : Prop :=
  t.calls = s.calls ∨ (∃ bs, t.calls = .send bs s.tmo :: s.calls) ∨ (∃ n, t.calls = .recv n s.tmo :: s.calls)

/-- Only the record and TMO of the state before matter. -/
theorem AtMostOneCall.congr_left {s s' t : State} (hc : s'.calls = s.calls) (ht : s'.tmo = s.tmo)
    (h : AtMostOneCall s' t) : AtMostOneCall s t := by
  rwa [AtMostOneCall, hc, ht] at h

/-- The first step of an operation makes no call: FCMD and FRECV make theirs in later steps (42 R136, R144). -/
theorem OpEffect.calls_eq {s t : State} (e : OpEffect s t) : t.calls = s.calls := by
  cases e <;> rfl

theorem HostEffect.calls_eq {s t : State} (e : HostEffect s t) : t.calls = s.calls := by
  cases e with
  | bytes b i vs => exact State.memWrite_calls s b i vs
  | len | cmd | tfi | cap | tmo => rfl

/-- A BLOCK step in IDLE or one that takes an abort makes no call; TX_SEND, RS_WAKE and RS_SEND send once, and every
other state receives once (42 R160, 43 R178). -/
theorem BlockEffect.atMostOneCall {s t : State} (e : BlockEffect s t) : AtMostOneCall s t := by
  cases e with
  | stay | abort => exact .inl rfl
  | txFail | txSent | woken | probeFail | probeSent => exact .inr (.inl (by simp))
  | ackFail | acked | ackErr | ackDrain | ackOther | errDrained
  | hdrFail | hdrBad | hdrApp | hdrExt | hdrSmall | hdrOk | appDrained
  | tcFail | tcBad | tcEmpty | tcPayload | plFail | plOk
  | trFail | trBadDcs | trBadPost | trOk
  | rsEnd | rsErr | rsDrained => exact .inr (.inr (by simp))

/-- What comes from the chip is no call of the block (10 R31); the BLOCK step that may follow makes its one. -/
theorem Effect.atMostOneCall {s t : State} (e : Effect s t) : AtMostOneCall s t := by
  cases e with
  | op _ e => exact .inl e.calls_eq
  | block e => exact e.atMostOneCall
  | arrive bs => exact .inl rfl
  | arriveBlock bs e => exact e.atMostOneCall.congr_left (s.arrive_calls bs) (s.arrive_tmo bs)
  | host _ e => exact .inl e.calls_eq
  | cancel => exact .inl s.cancel_calls
  | reset => exact .inl s.resetEvent_calls

/-- Settles O37: by the effects of a step; taking the event off the agenda changes neither the record nor TMO. -/
theorem atMostOneCallPerStep : Obligations.AtMostOneCallPerStep := by
  unfold Obligations.AtMostOneCallPerStep
  intro s t h
  obtain e | ⟨_, rest, -, e⟩ := step_effect h
  · exact e.atMostOneCall
  · exact AtMostOneCall.congr_left (s' := { s with agenda := rest }) rfl rfl e.atMostOneCall

end Sys2Proof.Machine
end

