-- ==== Sys2Proof/Proofs/State.lean ====
section
/-! PROOF. The state rules of 10_state.md: what every step keeps of the parameters and of the invariant (R27 to R32),
who writes LASTCMD (R25) and the status pair (R23, R24), what the HOST sees (R29, R34), and where received bytes go
(R31). -/

namespace Sys2Proof.Machine

/-! ### Frames of the shared operations -/

namespace State

@[simp] theorem layProbe_cfg (s : State) : s.layProbe.cfg = s.cfg := rfl
@[simp] theorem layProbe_status (s : State) : s.layProbe.status = s.status := rfl
@[simp] theorem layProbe_errinfo (s : State) : s.layProbe.errinfo = s.errinfo := rfl
@[simp] theorem layProbe_lastcmd (s : State) : s.layProbe.lastcmd = s.lastcmd := rfl

@[simp] theorem loseRxPayload_cfg (s : State) : s.loseRxPayload.cfg = s.cfg := rfl
@[simp] theorem loseRxPayload_lastcmd (s : State) : s.loseRxPayload.lastcmd = s.lastcmd := rfl

@[simp] theorem onPayload_cfg (s : State) (bs : List Byte) : (s.onPayload bs).cfg = s.cfg := rfl
@[simp] theorem onPayload_status (s : State) (bs : List Byte) : (s.onPayload bs).status = s.status := rfl
@[simp] theorem onPayload_errinfo (s : State) (bs : List Byte) : (s.onPayload bs).errinfo = s.errinfo := rfl
@[simp] theorem onPayload_lastcmd (s : State) (bs : List Byte) : (s.onPayload bs).lastcmd = s.lastcmd := rfl
@[simp] theorem onPayload_capl (s : State) (bs : List Byte) : (s.onPayload bs).capl = s.capl := rfl
@[simp] theorem onPayload_plen (s : State) (bs : List Byte) : (s.onPayload bs).plen = s.plen := rfl
@[simp] theorem onPayload_rtfi (s : State) (bs : List Byte) : (s.onPayload bs).rtfi = s.rtfi := rfl
@[simp] theorem onPayload_rcc (s : State) (bs : List Byte) : (s.onPayload bs).rcc = s.rcc := rfl
@[simp] theorem onPayload_fsm (s : State) (bs : List Byte) : (s.onPayload bs).fsm = .rxTrailer := rfl

@[simp] theorem cancel_cfg (s : State) : s.cancel.cfg = s.cfg := by unfold State.cancel; split <;> rfl
@[simp] theorem cancel_status (s : State) : s.cancel.status = s.status := by unfold State.cancel; split <;> rfl
@[simp] theorem cancel_errinfo (s : State) : s.cancel.errinfo = s.errinfo := by unfold State.cancel; split <;> rfl
@[simp] theorem cancel_lastcmd (s : State) : s.cancel.lastcmd = s.lastcmd := by unfold State.cancel; split <;> rfl

end State

/-! ### The bytes of the operands and of the built frame -/

namespace State

theorem payloadBytes_congr {s t : State} (hb : t.pbuf = s.pbuf) (he : t.epoch = s.epoch) (hl : t.len = s.len) :
    t.payloadBytes = s.payloadBytes := by
  rw [payloadBytes, payloadBytes, hl]
  exact memRead_congr (b := .pbuf) hb he _ _

theorem txFrame_congr {s t : State} (hb : t.txbuf = s.txbuf) (he : t.epoch = s.epoch) (hl : t.txlen = s.txlen) :
    t.txFrame = s.txFrame := by
  rw [txFrame, txFrame, hl]
  exact memRead_congr (b := .txbuf) hb he _ _

end State

/-! ### The parameters -/

/-- The parameters of 00 R7 are no register: nothing writes them. -/
theorem OpEffect.cfg_eq {s t : State} (e : OpEffect s t) : t.cfg = s.cfg := by
  cases e <;> rfl

theorem HostEffect.cfg_eq {s t : State} (e : HostEffect s t) : t.cfg = s.cfg := by
  cases e with
  | bytes b i vs => exact State.memWrite_cfg s b i vs
  | len | cmd | tfi | cap | tmo => rfl

theorem BlockEffect.cfg_eq {s t : State} (e : BlockEffect s t) : t.cfg = s.cfg := by
  cases e <;> simp

theorem Effect.cfg_eq {s t : State} (e : Effect s t) : t.cfg = s.cfg := by
  cases e with
  | op _ e => exact e.cfg_eq
  | block e => exact e.cfg_eq
  | arrive | reset => rfl
  | arriveBlock _ e => exact e.cfg_eq
  | host _ e => exact e.cfg_eq
  | cancel => exact s.cancel_cfg

/-! ### What the invariant asks in every FSM state -/

/-- No abort is pending, the status pair is one the block writes, and the buffers are canonical: what the invariant asks
whatever the FSM state is. -/
structure State.Settled (s : State) : Prop where
  no_abort : s.abortp = false
  status_code : s.status.toNat ≤ 0x0D ∧ s.status ≠ 0x0C
  errinfo_zero : s.status ≠ ErrKind.transportError.code → s.errinfo = 0
  buffers : ∀ b, Memory.wf (bufCapacity s.cfg b) (s.buf b) = true

namespace State.Inv

theorem settled {s : State} (hi : s.Inv) (ha : s.abortp = false) : s.Settled :=
  ⟨ha, hi.status_code, hi.errinfo_zero, hi.buffers⟩

/-- Outside a pending receive the latch is clear (10 R27), so the state is settled. -/
theorem settled_of_fsm {s : State} {f : Fsm} (hi : s.Inv) (hf : s.fsm = f) (hab : f.abortable = false) :
    s.Settled := by
  refine hi.settled (Bool.eq_false_iff.mpr fun ha => ?_)
  have h := hi.abort_pending ha
  rw [hf, hab] at h
  exact absurd h (by decide)

end State.Inv

/-- Every error code is one of the fourteen; MalformedDescriptor's is the one the block never writes (60 R201, R213). -/
theorem ErrKind.code_reported {e : ErrKind} (he : e ≠ .malformedDescriptor) :
    e.code.toNat ≤ 0x0D ∧ e.code ≠ 0x0C := by
  cases e
  case malformedDescriptor => exact absurd rfl he
  all_goals decide

namespace State.Settled

/-- The latches, the operand and result registers, the FSM state and the other agents' fields do not matter. -/
theorem congr {s t : State} (hs : s.Settled) (hc : t.cfg = s.cfg := by rfl) (ha : t.abortp = s.abortp := by rfl)
    (hst : t.status = s.status := by rfl) (he : t.errinfo = s.errinfo := by rfl)
    (hb : ∀ b, t.buf b = s.buf b := by intro b; cases b <;> rfl) : t.Settled where
  no_abort := ha.trans hs.no_abort
  status_code := hst ▸ hs.status_code
  errinfo_zero := by rw [hst, he]; exact hs.errinfo_zero
  buffers b := by rw [hc, hb]; exact hs.buffers b

theorem setFsm {s : State} (hs : s.Settled) (f : Fsm) : ({ s with fsm := f } : State).Settled := hs.congr

theorem afterRecv {s : State} (hs : s.Settled) (n : Nat) : (s.afterRecv n).Settled :=
  hs.congr (by simp) (by simp) (by simp) (by simp) (by simp)

theorem afterSend {s : State} (hs : s.Settled) (bs : List Byte) : (s.afterSend bs).Settled :=
  hs.congr (by simp) (by simp) (by simp) (by simp) (by simp)

theorem memWrite {s : State} (hs : s.Settled) {b : Buf} {i : Nat} {vs : List Byte}
    (hv : i + vs.length ≤ bufCapacity s.cfg b) : (s.memWrite b i vs).Settled where
  no_abort := by simpa using hs.no_abort
  status_code := by simpa using hs.status_code
  errinfo_zero := by simpa using hs.errinfo_zero
  buffers b' := by rw [memWrite_cfg]; exact wf_memWrite hv hs.buffers b'

/-- The probe frame fits TXBUF: its payload is at most 253 bytes (00 R7). -/
theorem layProbe {s : State} (hs : s.Settled) : s.layProbe.Settled := by
  have h1 := s.cfg.probePayload_le
  have h2 := s.cfg.maxPayload_le
  refine (hs.memWrite (b := .txbuf) (i := 0) (vs := s.probeFrame) ?_).congr
  rw [probeFrame_length, bufCapacity]
  omega

/-- The built frame fits TXBUF: a payload the build step accepts is at most 253 bytes (42 R132, 00 R7). -/
theorem build {s : State} (hs : s.Settled) (hl : s.len.toNat ≤ s.cfg.maxPayload) : s.build.Settled := by
  have h1 := s.cfg.maxPayload_le
  refine (hs.memWrite (b := .txbuf) (i := 0) (vs := buildFrame s.cmd s.payloadBytes) ?_).congr
  simp only [buildFrame_length, State.payloadBytes, memRead_length, bufCapacity]
  omega

theorem onPayload {s : State} (hs : s.Settled) {bs : List Byte} (hf : bs.length ≤ s.cfg.rxcap) :
    (s.onPayload bs).Settled :=
  (hs.memWrite (b := .rxbuf) (i := 0) (by simpa [bufCapacity] using hf)).setFsm .rxTrailer

theorem loseRxPayload {s : State} (hs : s.Settled) (hf : s.plen.toNat ≤ s.cfg.rxcap) : s.loseRxPayload.Settled :=
  (hs.memWrite (b := .rxbuf) (i := 0) (vs := freeRun s.draws 0 s.plen.toNat)
    (by simpa [bufCapacity] using hf)).congr

/-- The end of an operation leaves a good status pair: a code the block writes, and ERRINFO 0 but with TransportError
(10 R24). -/
theorem ending {s : State} (hs : s.Settled) {code : Byte} {info : Word} (hc : code.toNat ≤ 0x0D ∧ code ≠ 0x0C)
    (hi : code ≠ ErrKind.transportError.code → info = 0) :
    ({ s with status := code, errinfo := info, fsm := .idle } : State).Settled where
  no_abort := hs.no_abort
  status_code := hc
  errinfo_zero := hi
  buffers b := by cases b <;> exact hs.buffers _

theorem doneLen {s : State} (hs : s.Settled) (n : Half) : (s.doneLen n).Settled :=
  (hs.ending (code := statusOk) (info := 0) (by decide) fun _ => rfl).congr

theorem raise {s : State} (hs : s.Settled) {e : ErrKind} (he : e ≠ .malformedDescriptor) : (s.raise e 0).Settled :=
  hs.ending (ErrKind.code_reported he) fun _ => rfl

/-- A failure of the transport is Timeout with ERRINFO 0, or TransportError with the transport's value (10 R24). -/
theorem raiseFail {s : State} (hs : s.Settled) (e : TransportFail) : (s.raiseFail e).Settled := by
  cases e with
  | timeout => exact hs.raise (by decide)
  | error info => exact hs.ending (ErrKind.code_reported (e := .transportError) (by decide)) fun h => absurd rfl h

/-- In a settled state that receives no response and holds no built frame, the invariant asks only that a drain has
something to drain. -/
theorem inv_of_unabortable {s : State} (hs : s.Settled) (hab : s.fsm.abortable = false) (htx : s.fsm ≠ .txSend)
    (hd : s.fsm = .errDrain ∨ s.fsm = .rsDrain → 0 < s.cfg.errTrail) : s.Inv where
  abort_pending h := by rw [hs.no_abort] at h; cases h
  status_code := hs.status_code
  errinfo_zero := hs.errinfo_zero
  buffers := hs.buffers
  tx_frame h := absurd h htx
  rx_room h := by rw [hab] at h; cases h
  rx_fits h := by obtain h | h | h := h <;> rw [h] at hab <;> cases hab
  rx_payload h := by rw [h] at hab; cases hab
  rx_code h := by obtain h | h := h <;> rw [h] at hab <;> cases hab
  drain := hd

theorem inv_of_idle {s : State} (hs : s.Settled) (hf : s.fsm = .idle) : s.Inv :=
  hs.inv_of_unabortable (by rw [hf]; rfl) (by rw [hf]; decide) (by rw [hf]; simp)

/-- The states of an operation in progress of which the invariant asks nothing of their own. -/
theorem inv_setFsm {s : State} (hs : s.Settled) {f : Fsm}
    (hf : f = .awaitAck ∨ f = .appDrain ∨ f = .rsWake ∨ f = .rsSend ∨ f = .rsAck) :
    ({ s with fsm := f } : State).Inv := by
  obtain rfl | rfl | rfl | rfl | rfl := hf <;>
    exact (hs.setFsm _).inv_of_unabortable rfl (by simp) (by simp)

theorem inv_raise {s : State} (hs : s.Settled) {e : ErrKind} (he : e ≠ .malformedDescriptor) : (s.raise e 0).Inv :=
  (hs.raise he).inv_of_idle rfl

theorem inv_raiseFail {s : State} (hs : s.Settled) (e : TransportFail) : (s.raiseFail e).Inv :=
  (hs.raiseFail e).inv_of_idle (by simp)

/-- A drain of the ErrorFrame is entered when ERR_TRAIL is not 0 (42 R140, 43 R176). -/
theorem inv_drain {s : State} (hs : s.Settled) {f : Fsm} (hf : f = .errDrain ∨ f = .rsDrain)
    (ht : 0 < s.cfg.errTrail) : ({ s with fsm := f } : State).Inv := by
  obtain rfl | rfl := hf <;> exact (hs.setFsm _).inv_of_unabortable rfl (by simp) fun _ => ht

/-- While a response is received the invariant asks for the room, the payload's fit and the expected code. -/
theorem inv_of_abortable {s : State} (hs : s.Settled) (hab : s.fsm.abortable = true)
    (room : s.capl.toNat ≤ s.cfg.rxcap)
    (fits : s.fsm = .rxTc ∨ s.fsm = .rxPayload ∨ s.fsm = .rxTrailer →
      s.plen.toNat ≤ s.capl.toNat ∧ s.plen.toNat ≤ 253)
    (payload : s.fsm = .rxPayload → s.plen ≠ 0)
    (code : s.fsm = .rxPayload ∨ s.fsm = .rxTrailer → s.rtfi = tfiC2H ∧ s.rcc = s.lastcmd + 1) : s.Inv where
  abort_pending _ := hab
  status_code := hs.status_code
  errinfo_zero := hs.errinfo_zero
  buffers := hs.buffers
  tx_frame h := by rw [h] at hab; cases hab
  rx_room _ := room
  rx_fits := fits
  rx_payload := payload
  rx_code := code
  drain h := by obtain h | h := h <;> rw [h] at hab <;> cases hab

/-- The frame FCMD is about to send is the one it has just built (42 R136). -/
theorem inv_sending {s : State} (hs : s.Settled) (hl : s.len.toNat ≤ s.cfg.maxPayload) :
    ({ s.build with fsm := .txSend } : State).Inv := by
  obtain ⟨hframe, -, htxlen, -⟩ := s.build_spec hl
  have hb := hs.build hl
  have hsent : ({ s.build with fsm := .txSend } : State).txFrame = buildFrame s.cmd s.payloadBytes := by
    rw [← hframe, ← htxlen]
    exact txFrame_congr rfl rfl rfl
  have hdata := payloadBytes_congr (s := s) (t := { s.build with fsm := .txSend }) rfl rfl rfl
  exact {
    abort_pending := fun h => absurd (hb.no_abort.symm.trans h) (by decide)
    status_code := hb.status_code
    errinfo_zero := hb.errinfo_zero
    buffers := (hb.setFsm .txSend).buffers
    tx_frame := fun _ => ⟨hl, htxlen, hsent.trans (congrArg _ hdata.symm), rfl⟩
    rx_room := nofun
    rx_fits := nofun
    rx_payload := nofun
    rx_code := nofun
    drain := nofun }

end State.Settled

/-! ### Each effect keeps the invariant -/

/-- LEN of an accepted header is at least 2, so PLEN is LEN - 2 without a borrow (42 R150, R151). -/
theorem toNat_sub_two {len : Byte} (h : 2 ≤ len.toNat) : (len - 2).toNat = len.toNat - 2 := by
  bv_omega

/-- The row of R160 or R178 that a BLOCK step takes leads from a good state to a good one: it ends the operation, or
enters a state whose own demands its row has tested. -/
theorem BlockEffect.keeps_inv {s t : State} (hi : s.Inv) (e : BlockEffect s t) : t.Inv := by
  cases e with
  | stay => exact hi
  | abort h =>
    exact State.Settled.inv_of_unabortable
      ⟨rfl, hi.status_code, hi.errinfo_zero, fun b => by cases b <;> exact hi.buffers _⟩ rfl (by simp) (by simp)
  | txFail h e => exact ((hi.settled_of_fsm h rfl).afterSend _).inv_raiseFail e
  | txSent h => exact ((hi.settled_of_fsm h rfl).afterSend _).inv_setFsm (by simp)
  | ackFail h e => exact ((hi.settled_of_fsm h rfl).afterRecv 6).inv_raiseFail e
  | acked h => exact (((hi.settled_of_fsm h rfl).afterRecv 6).doneLen 0).inv_of_idle rfl
  | ackErr h | ackOther h => exact ((hi.settled_of_fsm h rfl).afterRecv 6).inv_raise (by decide)
  | ackDrain h ht => exact ((hi.settled_of_fsm h rfl).afterRecv 6).inv_drain (by simp) (by simpa using ht)
  | errDrained h => exact ((hi.settled_of_fsm h rfl).afterRecv _).inv_raise (by decide)
  | hdrFail _ ha e => exact ((hi.settled ha).afterRecv 5).inv_raiseFail e
  | hdrBad _ ha | hdrExt _ ha | hdrSmall _ ha => exact ((hi.settled ha).afterRecv 5).inv_raise (by decide)
  | hdrApp _ ha => exact ((hi.settled ha).afterRecv 5).inv_setFsm (by simp)
  | hdrOk h ha len h2 hc =>
    have hroom := hi.rx_room (by rw [h]; rfl)
    have hlen := len.isLt
    refine State.Settled.inv_of_abortable ((hi.settled ha).afterRecv 5).congr rfl (by simpa using hroom)
      (fun _ => ?_) (by simp) (by simp)
    simp only [toNat_sub_two h2, State.afterRecv_capl]
    exact ⟨hc, by omega⟩
  | appDrained h => exact ((hi.settled_of_fsm h rfl).afterRecv 3).inv_raise (by decide)
  | tcFail _ ha e => exact ((hi.settled ha).afterRecv 2).inv_raiseFail e
  | tcBad _ ha =>
    refine State.Settled.inv_raise (e := .unexpectedResponse) ?_ (by decide)
    exact ((hi.settled ha).afterRecv 2).congr
  | tcEmpty h ha =>
    exact State.Settled.inv_of_abortable ((hi.settled ha).afterRecv 2).congr rfl
      (by simpa using hi.rx_room (by rw [h]; rfl)) (fun _ => by simpa using hi.rx_fits (.inl h)) (by simp) (by simp)
  | tcPayload h ha hp =>
    exact State.Settled.inv_of_abortable ((hi.settled ha).afterRecv 2).congr rfl
      (by simpa using hi.rx_room (by rw [h]; rfl)) (fun _ => by simpa using hi.rx_fits (.inl h))
      (fun _ => by simpa using hp) (by simp)
  | plFail h ha hf e =>
    exact (((hi.settled ha).afterRecv _).loseRxPayload (by simpa [State.fits, bufCapacity] using hf)).inv_raiseFail e
  | plOk h ha hf bs hb =>
    have hroom := hi.rx_room (by rw [h]; rfl)
    have hfits := hi.rx_fits (.inr (.inl h))
    have hcode := hi.rx_code (.inl h)
    have hcap : bs.length ≤ s.cfg.rxcap := by omega
    exact (((hi.settled ha).afterRecv _).onPayload (by simpa using hcap)).inv_of_abortable rfl (by simpa using hroom)
      (fun _ => by simpa using hfits) (by simp) (fun _ => by simpa using hcode)
  | trFail _ ha e => exact ((hi.settled ha).afterRecv 2).inv_raiseFail e
  | trBadDcs _ ha | trBadPost _ ha => exact ((hi.settled ha).afterRecv 2).inv_raise (by decide)
  | trOk _ ha =>
    exact State.Settled.inv_of_idle (((hi.settled ha).afterRecv 2).doneLen (s.plen.setWidth 16)).congr rfl
  | woken h => exact ((hi.settled_of_fsm h rfl).afterSend _).inv_setFsm (by simp)
  | probeFail h => exact ((hi.settled_of_fsm h rfl).layProbe.afterSend _).inv_raise (by decide)
  | probeSent h => exact ((hi.settled_of_fsm h rfl).layProbe.afterSend _).inv_setFsm (by simp)
  | rsEnd h => exact ((hi.settled_of_fsm h rfl).afterRecv 6).inv_raise (by decide)
  | rsErr h ht => exact ((hi.settled_of_fsm h rfl).afterRecv 6).inv_drain (by simp) (by simpa using ht)
  | rsDrained h => exact ((hi.settled_of_fsm h rfl).afterRecv _).inv_raise (by decide)

theorem OpEffect.keeps_inv {s t : State} (hi : s.Inv) (hf : s.fsm = .idle) (e : OpEffect s t) : t.Inv := by
  have hs := hi.settled_of_fsm hf rfl
  cases e with
  | crc | dataSum => exact State.Settled.inv_of_idle (hs.doneLen s.rlen).congr rfl
  | append c hk =>
    have hw := hs.memWrite (b := .dbuf) (i := s.len.toNat) (vs := [crcLo c, crcHi c]) (by simpa [State.fits] using hk)
    exact State.Settled.inv_of_idle (hw.doneLen 0).congr rfl
  | cascade bs hl =>
    have hw := hs.memWrite (b := .cascbuf) (i := 0) (vs := bs) (by simpa [bufCapacity] using hl)
    exact (hw.doneLen _).inv_of_idle rfl
  | badUid | tooLarge => exact hs.inv_raise (by decide)
  | built hl => exact ((hs.build hl).doneLen _).inv_of_idle rfl
  | sending hl => exact hs.inv_sending hl
  | receiving hc =>
    exact State.Settled.inv_of_abortable hs.congr rfl hc (by simp) (by simp) (by simp)

theorem HostEffect.keeps_inv {s t : State} (hi : s.Inv) (hf : s.fsm = .idle) (e : HostEffect s t) : t.Inv := by
  have hs := hi.settled_of_fsm hf rfl
  cases e with
  | len | cmd | tfi | cap | tmo => exact State.Settled.inv_of_idle hs.congr hf
  | bytes b i vs hv => exact (hs.memWrite hv).inv_of_idle (by simpa using hf)

namespace State

/-- What the chip sends and which agent moves next are no part of the invariant. -/
theorem Inv.setPendingAgenda {s : State} (hi : s.Inv) (p : List Byte) (a : List Event) :
    ({ s with pending := p, agenda := a } : State).Inv where
  abort_pending := hi.abort_pending
  status_code := hi.status_code
  errinfo_zero := hi.errinfo_zero
  buffers b := by cases b <;> exact hi.buffers _
  tx_frame h := by
    obtain ⟨hlen, htxlen, hframe, hcmd⟩ := hi.tx_frame h
    have hsent := txFrame_congr (s := s) (t := { s with pending := p, agenda := a }) rfl rfl rfl
    have hdata := payloadBytes_congr (s := s) (t := { s with pending := p, agenda := a }) rfl rfl rfl
    exact ⟨hlen, htxlen, hsent.trans (hframe.trans (congrArg _ hdata.symm)), hcmd⟩
  rx_room := hi.rx_room
  rx_fits := hi.rx_fits
  rx_payload := hi.rx_payload
  rx_code := hi.rx_code
  drain := hi.drain

/-- An abort is latched where it can be pending only (43 R173). -/
theorem Inv.cancel {s : State} (hi : s.Inv) : s.cancel.Inv := by
  unfold State.cancel
  split
  · rename_i hab
    exact { hi with
      abort_pending := fun _ => hab
      tx_frame := fun h => by rw [show s.fsm = .txSend from h] at hab; cases hab
      buffers := fun b => by cases b <;> exact hi.buffers _ }
  · exact hi

/-- After a reset nothing is written and no operation is in progress (70 R231). -/
theorem blockReset_settled (c : Params) (n : Nat) (r : RegDraw) : (State.blockReset c n r).Settled where
  no_abort := rfl
  status_code := by simp [State.blockReset]
  errinfo_zero _ := rfl
  buffers b := by cases b <;> rfl

theorem resetEvent_inv (s : State) : s.resetEvent.Inv :=
  (blockReset_settled s.cfg (s.epoch + 1) (Config.powerOnRegs (s.epoch + 1))).congr.inv_of_idle rfl

end State

theorem Effect.keeps_inv {s t : State} (hi : s.Inv) (e : Effect s t) : t.Inv := by
  cases e with
  | op hf e => exact e.keeps_inv hi hf
  | block e => exact e.keeps_inv hi
  | arrive bs => exact hi.setPendingAgenda _ s.agenda
  | arriveBlock bs e => exact e.keeps_inv (hi.setPendingAgenda _ s.agenda)
  | host hf e => exact e.keeps_inv hi hf
  | cancel => exact hi.cancel
  | reset => exact s.resetEvent_inv

/-- Settles O48: by the effects of a step; taking the event off the agenda touches neither the parameters nor the
invariant. -/
theorem stepKeepsTheInvariant : Obligations.StepKeepsTheInvariant := by
  unfold Obligations.StepKeepsTheInvariant
  intro s t h
  obtain e | ⟨_, rest, -, e⟩ := step_effect h
  · exact ⟨e.cfg_eq, fun hi => e.keeps_inv hi⟩
  · exact ⟨e.cfg_eq, fun hi => e.keeps_inv (hi.setPendingAgenda s.pending rest)⟩

/-- Settles O47: the state after reset is settled and idle. -/
theorem resetIsGood : Obligations.ResetIsGood :=
  (State.blockReset_settled Config.params 0 (Config.powerOnRegs 0)).congr.inv_of_idle rfl

/-- Settles O45: each value is the one R32 gives. -/
theorem resetValues : Obligations.ResetValues :=
  ⟨rfl, rfl, rfl, rfl, rfl, fun b => by cases b <;> rfl⟩

/-! ### Who writes LASTCMD -/

/-- The last step of an FRECV that succeeds: LASTCMD advances (42 R157). -/
def RecvEnd (s t : State) : Prop :=
  s.fsm = .rxTrailer ∧ s.abortp = false ∧ t.lastcmd = s.lastcmd + 1 ∧ t.fsm = .idle ∧ t.status = 0x00

/-- Every other step of the BLOCK keeps LASTCMD. -/
theorem BlockEffect.lastcmd_eq_or {s t : State} (e : BlockEffect s t) : t.lastcmd = s.lastcmd ∨ RecvEnd s t := by
  cases e with
  | trOk h ha => exact .inr ⟨h, ha, rfl, rfl, rfl⟩
  | _ => exact .inl (by simp)

theorem HostEffect.lastcmd_eq {s t : State} (e : HostEffect s t) : t.lastcmd = s.lastcmd := by
  cases e with
  | bytes b i vs => exact State.memWrite_lastcmd s b i vs
  | len | cmd | tfi | cap | tmo => rfl

/-- The first step of any operation, but for a build step with LEN ≤ MAX_PAYLOAD, keeps LASTCMD. -/
theorem OpEffect.lastcmd_eq_or {s t : State} (e : OpEffect s t) :
    t.lastcmd = s.lastcmd ∨ s.len.toNat ≤ s.cfg.maxPayload ∧ t.lastcmd = s.cmd := by
  cases e with
  | built hl | sending hl => exact .inr ⟨hl, rfl⟩
  | _ => exact .inl rfl

theorem cascade_lastcmd (s : State) : s.cascade.lastcmd = s.lastcmd := by
  unfold State.cascade
  split
  · split <;> rfl
  · rfl

/-- No operation but FBUILD and FCMD has a build step (42 R133). -/
theorem exec_lastcmd {s t : State} {i : Instr} (hi : isOperation i = true) (h : exec i s = .next t)
    (hn : t.lastcmd ≠ s.lastcmd) : i = .fbuild ∨ i = .fcmd := by
  cases i with
  | fbuild => exact .inl rfl
  | fcmd => exact .inr rfl
  | crca | crcaApp | crcb | crcbApp | dcs | frecv =>
    obtain ⟨-, -, rfl⟩ := start_next h
    exact absurd rfl hn
  | casc =>
    obtain ⟨-, -, rfl⟩ := start_next h
    exact absurd (cascade_lastcmd s) hn
  | _ => cases hi

/-- What the operation port decodes is an operation (30 R86). -/
theorem decodeOp_isOperation {opc : Byte} {i : Instr} (h : decodeOp opc = .ok i) : isOperation i = true :=
  (by decide : ∀ row ∈ opTable, isOperation row.2 = true) _ (decodeOp_inv h)

/-- The codes of the two operations with a build step (30 R86). -/
theorem decodeOp_build {opc : Byte} {i : Instr} (h : decodeOp opc = .ok i) (hi : i = .fbuild ∨ i = .fcmd) :
    opc = 0x20 ∨ opc = 0x21 :=
  (by decide : ∀ row ∈ opTable, row.2 = .fbuild ∨ row.2 = .fcmd → row.1 = 0x20 ∨ row.1 = 0x21)
    _ (decodeOp_inv h) hi

theorem decodeFrameRx_isReceived {bs : List Byte} {i : Instr} (h : decodeFrameRx bs = .ok i) : isReceived i = true := by
  unfold decodeFrameRx at h
  split at h
  · split at h
    · cases h
    · split at h
      · split at h <;> cases h
        rfl
      · split at h
        · cases h
          rfl
        · split at h
          · cases h
          · split at h
            · cases h
            · obtain ⟨cc, p, rfl, -⟩ := decodeNormal_inv (by omega) h
              rfl
  · cases h

theorem decodeAckRx_isReceived {c : Params} {bs : List Byte} {i : Instr} (h : decodeAckRx c bs = .ok i) :
    isReceived i = true := by
  unfold decodeAckRx at h
  split at h
  · cases h
    rfl
  · split at h
    · split at h <;> cases h
      rfl
    · cases h

/-- Bytes on the wire are recognised as received formats only (30 R82). -/
theorem decodeArriving_isReceived {c : Params} {bs : List Byte} {i : Instr} (h : decodeArriving c bs = some i) :
    isReceived i = true := by
  simp only [decodeArriving, decodeFirst] at h
  split at h
  · cases h
    exact decodeFrameRx_isReceived ‹_›
  · split at h <;> cases h
    exact decodeAckRx_isReceived ‹_›

theorem receive_lastcmd {s t : State} {bs : List Byte} (h : s.receive bs = .next t) :
    t.lastcmd = s.lastcmd ∨ RecvEnd s t := by
  obtain rfl | e := receive_next h
  · exact .inl rfl
  · exact e.lastcmd_eq_or

/-- An event that changes LASTCMD is the start of FBUILD or FCMD, one on which the BLOCK ends an FRECV, or a reset. -/
theorem runEvent_lastcmd {s t : State} {e : Event} (h : s.runEvent e = .next t) (hn : t.lastcmd ≠ s.lastcmd) :
    (∃ opc, e = .start opc ∧ (opc = 0x20 ∨ opc = 0x21) ∧ s.fsm = .idle ∧ s.len.toNat ≤ s.cfg.maxPayload ∧
      t.lastcmd = s.cmd) ∨
    RecvEnd s t ∨ (e = .reset ∧ t.lastcmd = s.cfg.lastcmdReset) := by
  cases e with
  | start opc =>
    simp only [State.runEvent] at h
    split at h
    · rename_i i hd
      have hop := decodeOp_isOperation hd
      obtain ⟨hf, e⟩ := exec_op_effect (.inl hop) h
      obtain ⟨hl, hc⟩ := e.lastcmd_eq_or.resolve_left hn
      exact .inl ⟨opc, rfl, decodeOp_build hd (exec_lastcmd hop h hn), hf, hl, hc⟩
    · cases h
  | host w => exact absurd (hostWrite_effect h).2.lastcmd_eq hn
  | abort => cases h; exact absurd s.cancel_lastcmd hn
  | arrive bs => cases h; exact absurd rfl hn
  | wire bs =>
    simp only [State.runEvent] at h
    split at h
    · rename_i i hd
      rw [exec_received (decodeArriving_isReceived hd)] at h
      exact .inr (.inl ((receive_lastcmd h).resolve_left hn))
    · exact .inr (.inl ((receive_lastcmd h).resolve_left hn))
  | block => exact .inr (.inl ((blockStep_effect h).lastcmd_eq_or.resolve_left hn))
  | reset => cases h; exact .inr (.inr ⟨rfl, rfl⟩)

/-- Settles O51: by the event that the step takes, or the BLOCK's own step. -/
theorem onlyTheseWriteLastcmd : Obligations.OnlyTheseWriteLastcmd := by
  unfold Obligations.OnlyTheseWriteLastcmd
  intro s t h hn
  unfold step at h
  split at h
  · exact .inr (.inl ((blockStep_effect h).lastcmd_eq_or.resolve_left hn))
  · rename_i e rest ha
    obtain ⟨opc, rfl, hopc⟩ | hend | ⟨rfl, hr⟩ := runEvent_lastcmd h hn
    · exact .inl ⟨opc, rest, ha, hopc⟩
    · exact .inr (.inl hend)
    · exact .inr (.inr ⟨rest, ha, hr⟩)

/-! ### Who writes the status pair -/

/-- The status pair is as it was, or the block is in IDLE. -/
def StatusKeptOrIdle (s t : State) : Prop := t.status = s.status ∧ t.errinfo = s.errinfo ∨ t.fsm = .idle

/-- FCMD and FRECV go on after their first step and leave the pair alone; every other first step is a last one. -/
theorem OpEffect.statusKeptOrIdle {s t : State} (e : OpEffect s t) : StatusKeptOrIdle s t := by
  cases e with
  | sending | receiving => exact .inl ⟨rfl, rfl⟩
  | crc | append | dataSum | cascade | badUid | tooLarge | built => exact .inr rfl

theorem HostEffect.statusKeptOrIdle {s t : State} (e : HostEffect s t) : StatusKeptOrIdle s t := by
  cases e with
  | bytes b i vs => exact .inl ⟨State.memWrite_status s b i vs, State.memWrite_errinfo s b i vs⟩
  | len | cmd | tfi | cap | tmo => exact .inl ⟨rfl, rfl⟩

/-- A BLOCK step that enters another state of the operation leaves the pair alone; the others end the operation. -/
theorem BlockEffect.statusKeptOrIdle {s t : State} (e : BlockEffect s t) : StatusKeptOrIdle s t := by
  cases e with
  | stay h => exact .inr h
  | abort | txSent | ackDrain | hdrApp | hdrOk | tcEmpty | tcPayload | plOk | woken | probeSent | rsErr =>
    exact .inl (by simp)
  | _ => exact .inr (by simp)

theorem Effect.statusKeptOrIdle {s t : State} (e : Effect s t) : StatusKeptOrIdle s t := by
  cases e with
  | op _ e => exact e.statusKeptOrIdle
  | block e => exact e.statusKeptOrIdle
  | arrive bs => exact .inl ⟨rfl, rfl⟩
  | arriveBlock bs e => exact e.statusKeptOrIdle
  | host _ e => exact e.statusKeptOrIdle
  | cancel => exact .inl ⟨s.cancel_status, s.cancel_errinfo⟩
  | reset => exact .inr rfl

/-- A failure of the transport has one of two codes (42 R143, R158). -/
theorem raiseFail_status_mem (s : State) (e : TransportFail) {codes : List Byte} (h1 : 0x01 ∈ codes)
    (h2 : 0x02 ∈ codes) : (s.raiseFail e).status ∈ codes := by
  cases e with
  | timeout => exact h1
  | error info => exact h2

/-- A BLOCK step that ends the operation leaves a code that its state may raise (60 R202 to R214). -/
theorem BlockEffect.status_mem_endCodes {s t : State} (e : BlockEffect s t) (hs : s.fsm ≠ .idle)
    (ht : t.fsm = .idle) : t.status ∈ s.fsm.endCodes := by
  cases e with
  | stay => exact absurd ht hs
  | abort | txSent | ackDrain | hdrApp | hdrOk | tcEmpty | tcPayload | plOk | woken | probeSent | rsErr => simp at ht
  | txFail h e | ackFail h e | hdrFail h _ e | tcFail h _ e | plFail h _ _ e | trFail h _ e =>
    rw [h]
    exact raiseFail_status_mem _ e (by decide) (by decide)
  | _ => simp [*, Fsm.endCodes, ErrKind.code, statusOk]

/-- Settles O52: by the effects of a step and of a BLOCK step. -/
theorem statusIsWrittenAtTheEnd : Obligations.StatusIsWrittenAtTheEnd := by
  unfold Obligations.StatusIsWrittenAtTheEnd
  refine ⟨fun s t h hn => ?_, fun s t hs h ht => (blockStep_effect h).status_mem_endCodes hs ht⟩
  have hk : StatusKeptOrIdle s t := by
    obtain e | ⟨_, rest, -, e⟩ := step_effect h
    · exact e.statusKeptOrIdle
    · exact e.statusKeptOrIdle
  exact hk.resolve_left fun hkept => hn.elim (absurd hkept.1) (absurd hkept.2)

/-! ### What the HOST sees -/

namespace State

/-- `s` with other receive latches. -/
def withLatches (s : State) (c : Half) (p r q : Byte) : State := { s with capl := c, plen := p, rtfi := r, rcc := q }

variable (s : State) (c : Half) (p r q : Byte)

@[simp] theorem withLatches_len : (s.withLatches c p r q).len = s.len := rfl

theorem withLatches_buf (b : Buf) : (s.withLatches c p r q).buf b = s.buf b := by cases b <;> rfl

/-- The latches are in no buffer, so no read sees them. -/
@[simp] theorem withLatches_memRead (b : Buf) (i n : Nat) :
    (s.withLatches c p r q).memRead b i n = s.memRead b i n :=
  memRead_congr (s.withLatches_buf c p r q b) rfl n i

/-- The latches are not among the registers the HOST may read (10 R29, R34). -/
theorem withLatches_hostView : (s.withLatches c p r q).hostView = s.hostView := by
  have hb : ∀ b, (s.withLatches c p r q).hostBytes b = s.hostBytes b :=
    fun b => hostBytes_congr (s.withLatches_buf c p r q b) rfl rfl
  simp only [hostView, hb]
  rfl

theorem withLatches_dataBytes : (s.withLatches c p r q).dataBytes = s.dataBytes := s.withLatches_memRead c p r q _ _ _

theorem withLatches_payloadBytes : (s.withLatches c p r q).payloadBytes = s.payloadBytes :=
  s.withLatches_memRead c p r q _ _ _

theorem withLatches_build : (s.withLatches c p r q).build = s.build.withLatches c p r q := by
  rw [build, withLatches_payloadBytes]
  rfl

theorem withLatches_payloadTooLarge : (s.withLatches c p r q).payloadTooLarge = s.payloadTooLarge := rfl

theorem withLatches_cascade : (s.withLatches c p r q).cascade = s.cascade.withLatches c p r q := by
  simp only [cascade, withLatches_memRead, withLatches_len]
  split
  · split <;> rfl
  · rfl

end State

/-- Whether an operation is accepted does not depend on the latches; CAPL may be another one afterwards. -/
theorem start_withLatches {s t u u' : State} {ok : Bool} {c c' : Half} {p r q : Byte} (h : s.start ok u = .next t)
    (hu : u' = u.withLatches c' p r q) : (s.withLatches c p r q).start ok u' = .next (t.withLatches c' p r q) := by
  obtain ⟨hf, rfl, rfl⟩ := start_next h
  rw [hu]
  exact if_pos hf

/-- No operation but FRECV reads or writes a latch in its first step, and FRECV writes CAPL, from CAP (10 R29). -/
theorem exec_withLatches {s t : State} {i : Instr} (hi : isOperation i = true) (h : exec i s = .next t) (c : Half)
    (p r q : Byte) : ∃ c', exec i (s.withLatches c p r q) = .next (t.withLatches c' p r q) := by
  cases i with
  | crca | crcb | crcaApp | crcbApp =>
    refine ⟨c, start_withLatches h ?_⟩
    simp only [State.crcA, State.crcB, State.withLatches_dataBytes]
    rfl
  | dcs =>
    refine ⟨c, start_withLatches h ?_⟩
    rw [State.withLatches_payloadBytes]
    rfl
  | casc => exact ⟨c, start_withLatches h (s.withLatches_cascade c p r q)⟩
  | fbuild | fcmd =>
    refine ⟨c, start_withLatches h ?_⟩
    rw [State.withLatches_build, State.withLatches_payloadTooLarge]
    cases s.payloadTooLarge <;> rfl
  | frecv => exact ⟨s.cap, start_withLatches h rfl⟩
  | _ => cases hi

/-- Settles O54: the view is the registers and the buffers, and no operation's first step reads a latch. -/
theorem latchesAreHidden : Obligations.LatchesAreHidden := by
  unfold Obligations.LatchesAreHidden
  refine ⟨fun s => ⟨fun b => ?_, fun b a ha => ?_, rfl, rfl, rfl, rfl, rfl, rfl, rfl, rfl, rfl, rfl, rfl, rfl, rfl,
    rfl⟩, fun s c p r q => s.withLatches_hostView c p r q, fun s t i c p r q hi h => ?_⟩
  · rw [State.hostView_bytes, State.hostBytes_length]
  · rw [State.hostView_bytes, s.hostBytes_getElem? b ha]
  · obtain ⟨c', h'⟩ := exec_withLatches hi h c p r q
    exact ⟨_, h', t.withLatches_hostView c' p r q⟩

/-! ### Where received bytes go -/

/-- The four states whose step is no receive (10 R26). -/
theorem Fsm.receives_eq_false {f : Fsm} :
    f.receives = false ↔ f = .idle ∨ f = .txSend ∨ f = .rsWake ∨ f = .rsSend := by
  cases f <;> simp [Fsm.receives]

/-- Settles O38: a received format is received as its bytes are, and the BLOCK steps in the states that receive. -/
theorem formatsArriveWhenNothingWaits : Obligations.FormatsArriveWhenNothingWaits := by
  unfold Obligations.FormatsArriveWhenNothingWaits
  intro s i hi
  rw [exec_received hi, State.receive]
  refine ⟨fun hf => ?_, fun h1 h2 h3 h4 => ?_⟩
  · rw [Fsm.receives_eq_false.mpr hf]
    rfl
  · have hr : s.fsm.receives = true := by
      rw [← Bool.not_eq_false, Fsm.receives_eq_false]
      simp [h1, h2, h3, h4]
    rw [hr]
    rfl

end Sys2Proof.Machine
end

