-- ==== Sys2Proof/Proofs/Memory.lean ====
section
/-! PROOF. The memory rules of 20_memory.md: what a receive takes from the transport's stream, what a send leaves of it,
and that neither touches the block (R57 to R59, R66). -/

namespace Sys2Proof.Machine

namespace State

/-- A successful receive cuts the stream, with what arrived, into the bytes it gives and what is left. -/
theorem recvReply_append_pending {s : State} {n : Nat} {bs : List Byte} (h : s.recvReply n = .ok bs) :
    bs ++ (s.afterRecv n).pending = s.pending ++ s.nextAnswer.arrived := by
  obtain ⟨-, -, hbs⟩ := recvReply_ok h
  rw [afterRecv_pending, recvConsumed_ok h, hbs, afterAnswer_pending, List.take_append_drop]

/-- A failed receive of at least one byte loses fewer than it asked for. -/
theorem recvConsumed_lt {s : State} {n : Nat} {e : TransportFail} (h : s.recvReply n = .error e) (hn : 1 ≤ n) :
    s.recvConsumed n < n := by
  have hle := recvConsumed_error h
  omega

/-- A send takes nothing from the stream; what arrived meanwhile is appended. -/
theorem afterSend_pending (s : State) (bs : List Byte) :
    (s.afterSend bs).pending = s.pending ++ s.nextAnswer.arrived := s.afterAnswer_pending

end State

/-- Settles O36: the stream after a call is what the call leaves of the old stream and the bytes that the answer brought;
the record and the frame are the laws of the two calls. -/
theorem transportPrimitives : Obligations.TransportPrimitives := by
  unfold Obligations.TransportPrimitives
  refine ⟨fun s n hn => ⟨fun bs h => ?_, fun e h => ?_, s.afterRecv_calls n, s.afterRecv_frame n⟩,
    fun s bs => ⟨s.afterSend_calls bs, ⟨_, s.afterSend_pending bs⟩, s.afterSend_frame bs⟩⟩
  · exact ⟨State.recvReply_length h, _, (State.recvReply_append_pending h).symm⟩
  · exact ⟨_, _, State.recvConsumed_lt h hn, s.afterRecv_pending n⟩

end Sys2Proof.Machine
end

