-- ==== Sys2Proof/Proofs/Encoding.lean ====
section
/-! PROOF. The encodings of 30_encoding.md: the checksum bytes (R73, R74) and the normal frame (R71, R72); that the
decoder and the encoder undo each other at every port (R70 to R86); the step that runs what was decoded (R82, R87); and
the meaning of the received formats, of the sent ones and of the layouts (R75 to R80, R84, R85). -/

namespace Sys2Proof

/-! ### The checksum bytes -/

/-- LCS is the one byte that makes the sum with LEN zero (30 R73). -/
theorem eq_lcs_iff {len lc : Byte} : lc = lcs len ↔ (len.toNat + lc.toNat) % 256 = 0 := by
  constructor
  · rintro rfl
    exact len_add_lcs len
  · intro h
    apply BitVec.eq_of_toNat_eq
    have hl := lcs_toNat len
    have := lc.isLt
    have := len.isLt
    omega

/-- DCS is the one byte that makes the sum with TFI, the command code and the payload zero (30 R74). -/
theorem eq_dcs_iff {tfi cmd d : Byte} {p : List Byte} :
    d = dcs tfi cmd p ↔ (tfi.toNat + cmd.toNat + byteSum p + d.toNat) % 256 = 0 := by
  have hd := dcs_toInt tfi cmd p
  constructor
  · rintro rfl
    omega
  · intro h
    apply BitVec.eq_of_toNat_eq
    have := d.isLt
    omega

/-- Settles O9: each checksum is the residue of its formula, and a byte is fixed by its residue. -/
theorem checksumBytesMakeTheSumsZero : Obligations.ChecksumBytesMakeTheSumsZero := by
  unfold Obligations.ChecksumBytesMakeTheSumsZero
  exact ⟨fun len _ => ⟨lcs_toNat len, eq_lcs_iff⟩, fun tfi cmd _ p => ⟨dcs_toInt tfi cmd p, eq_dcs_iff⟩⟩

/-! ### The normal frame -/

/-- What the decoders test of a header, LEN and LCS of a normal frame pass: it is no APPERR and no EXT marker, its sum
is zero and LEN is at least 2 (30 R82). -/
theorem lenByte_passes {p : List Byte} (h : p.length ≤ 253) :
    ¬ (lenByte p = 0x01 ∧ lcs (lenByte p) = 0xFF) ∧ ¬ (lenByte p = 0xFF ∧ lcs (lenByte p) = 0xFF) ∧
      lenByte p + lcs (lenByte p) = 0 ∧ ¬ (lenByte p).toNat < 2 := by
  have hlen := lenByte_toNat h
  have hsum : lenByte p + lcs (lenByte p) = 0 := (add_eq_zero_iff _ _).mpr (len_add_lcs _)
  refine ⟨?_, ?_, hsum, by omega⟩
  · rintro ⟨e, -⟩
    simp [e] at hlen
  · rintro ⟨e, e'⟩
    rw [e', e] at hsum
    exact absurd hsum (by decide)

/-- From LEN on, the bytes that pass the tests of a normal frame are one (30 R71 to R74). -/
theorem normalFrame_of_decodeNormal {tfi len lc : Byte} {mk : Byte → List Byte → Instr} {rest : List Byte} {i : Instr}
    (hsum : ¬ len + lc ≠ 0) (hl : ¬ len.toNat < 2) (h : decodeNormal tfi mk len rest = .ok i) :
    ∃ cc p, i = mk cc p ∧ p.length ≤ 253 ∧ preamble ++ len :: lc :: rest = normalFrame tfi cc p := by
  obtain ⟨cc, p, hi, hlen, hrest⟩ := decodeNormal_inv (by omega) h
  have hp : p.length ≤ 253 := by
    have := len.isLt
    omega
  have hlenB : len = lenByte p := BitVec.eq_of_toNat_eq (by rw [hlen, lenByte_toNat hp])
  have hlc : lc = lcs len := eq_lcs_iff.mpr ((add_eq_zero_iff _ _).mp (by simpa using hsum))
  refine ⟨cc, p, hi, hp, ?_⟩
  rw [normalFrame_eq, hrest, hlc, hlenB]
  rfl

/-- The layout of 30 R71 for either direction byte, index by index. -/
theorem normalFrame_layout (tfi cc : Byte) (p : List Byte) :
    (normalFrame tfi cc p).take 3 = [0x00, 0x00, 0xFF] ∧
    (normalFrame tfi cc p)[3]? = some (lenByte p) ∧ (normalFrame tfi cc p)[4]? = some (lcs (lenByte p)) ∧
    (normalFrame tfi cc p)[5]? = some tfi ∧ (normalFrame tfi cc p)[6]? = some cc ∧
    ((normalFrame tfi cc p).drop 7).take p.length = p ∧
    (normalFrame tfi cc p)[7 + p.length]? = some (dcs tfi cc p) ∧
    (normalFrame tfi cc p)[8 + p.length]? = some 0x00 := by
  rw [normalFrame_eq]
  refine ⟨rfl, rfl, rfl, rfl, rfl, ?_, ?_, ?_⟩
  · simp
  · simp [Nat.add_comm 7]
  · simp [Nat.add_comm 8]

/-- Settles O8: the two directions are one layout, with the direction byte at index 5. -/
theorem normalFrameLayout : Obligations.NormalFrameLayout := by
  unfold Obligations.NormalFrameLayout
  intro c tfi cc p frame hp hframe
  have hf : frame = normalFrame tfi cc p := by
    obtain ⟨rfl, rfl⟩ | ⟨rfl, rfl⟩ := hframe <;> rfl
  subst hf
  obtain ⟨hpre, h3, h4, h5, h6, hpay, hdcs, hpost⟩ := normalFrame_layout tfi cc p
  have hlen := lenByte_toNat hp
  exact ⟨normalFrame_length tfi cc p, hpre,
    ⟨_, _, h3, h4, hlen, by omega, lcs_toNat _, by rw [normalFrame_length, hlen]⟩,
    h5, h6, hpay, ⟨_, hdcs, dcs_toInt tfi cc p⟩, hpost⟩

/-! ### The decoder at each port, on what the encoder writes -/

theorem decodeFrameRx_normalFrame (cc : Byte) {p : List Byte} (h : p.length ≤ 253) :
    decodeFrameRx (normalFrame tfiC2H cc p) = .ok (.nfC2H cc p) := by
  obtain ⟨happ, hext, hsum, hshort⟩ := lenByte_passes h
  rw [normalFrame_eq]
  dsimp only [decodeFrameRx]
  rw [if_neg (by simp [preamble]), if_neg happ, if_neg hext, if_neg (by simp [hsum]), if_neg hshort]
  exact decodeNormal_frame _ (lenByte_toNat h)

theorem decodeFrameTx_normalFrame (cc : Byte) {p : List Byte} (h : p.length ≤ 253) :
    decodeFrameTx (normalFrame tfiH2C cc p) = .ok (.nfH2C cc p) := by
  obtain ⟨-, -, hsum, hshort⟩ := lenByte_passes h
  rw [normalFrame_eq, decodeFrameTx, if_neg (by simp [preamble]), if_neg (by simp [hsum]), if_neg hshort]
  exact decodeNormal_frame _ (lenByte_toNat h)

/-- ACK_FRAME and ERR_FRAME differ in their six bytes (00 R7), so an ErrorFrame of any tail is no acknowledge. -/
theorem errFrame_append_ne_ack (c : Params) (tail : List Byte) : c.errFrame ++ tail ≠ c.ackFrame := by
  intro h
  apply Machine.ack_ne_err c
  have e := congrArg (List.take 6) h
  rwa [List.take_left' c.errFrame_length, List.take_of_length_le c.ackFrame_length.le, eq_comm] at e

theorem decodeAckRx_err {c : Params} {tail : List Byte} (h : tail.length = c.errTrail) :
    decodeAckRx c (c.errFrame ++ tail) = .ok (.err tail) := by
  rw [decodeAckRx, if_neg (errFrame_append_ne_ack c tail), if_pos (List.take_left' c.errFrame_length),
    List.drop_left' c.errFrame_length, if_pos h]

/-- What the encoder writes, the decoder reads back at the instruction's port. -/
theorem decode_encode {c : Params} {i : Instr} (h : i.wf c = true) : decode c i.port (encode c i) = .ok i := by
  cases i with
  | crca | crcaApp | crcb | crcbApp | dcs | casc | fbuild | fcmd | frecv => rfl
  | nfH2C cc p => exact decodeFrameTx_normalFrame cc (of_decide_eq_true h)
  | nfC2H cc p => exact decodeFrameRx_normalFrame cc (of_decide_eq_true h)
  | ack => exact if_pos rfl
  | err tail => exact decodeAckRx_err (of_decide_eq_true h)
  | wake => exact if_pos rfl
  | apperr | ext | crcPair | casc4 | casc7 | casc10 => rfl

/-- Settles O4: the normal frame's header passes every test of the decoder, an ErrorFrame is no AckFrame, and the other
encodings are read byte by byte. -/
theorem decodeAfterEncode : Obligations.DecodeAfterEncode := by
  unfold Obligations.DecodeAfterEncode
  exact fun _ _ h => decode_encode h

/-! ### The decoder at each port, on any bytes -/

/-- The instruction is met at `p`, can be encoded, and its encoding is `bs`. -/
def IsEncodingAt (c : Params) (p : Port) (bs : List Byte) (i : Instr) : Prop :=
  i.port = p ∧ i.wf c = true ∧ encode c i = bs

theorem decodeOp_isEncoding {c : Params} {opc : Byte} {i : Instr} (h : decodeOp opc = .ok i) :
    IsEncodingAt c .op [opc] i := by
  have hm := decodeOp_inv h
  simp only [opTable, List.mem_cons, Prod.mk.injEq, List.not_mem_nil, or_false] at hm
  obtain ⟨rfl, rfl⟩ | ⟨rfl, rfl⟩ | ⟨rfl, rfl⟩ | ⟨rfl, rfl⟩ | ⟨rfl, rfl⟩ | ⟨rfl, rfl⟩ | ⟨rfl, rfl⟩ | ⟨rfl, rfl⟩ |
    ⟨rfl, rfl⟩ := hm <;> exact ⟨rfl, rfl, rfl⟩

theorem decodeAckRx_isEncoding {c : Params} {bs : List Byte} {i : Instr} (h : decodeAckRx c bs = .ok i) :
    IsEncodingAt c .ackRx bs i := by
  unfold decodeAckRx at h
  split at h
  · rename_i hack
    cases h
    exact ⟨rfl, rfl, hack.symm⟩
  · split at h
    · rename_i herr
      split at h
      · rename_i hlen
        cases h
        exact ⟨rfl, decide_eq_true hlen, by rw [encode, ← herr, List.take_append_drop]⟩
      · cases h
    · cases h

theorem decodeFrameRx_isEncoding {c : Params} {bs : List Byte} {i : Instr} (h : decodeFrameRx bs = .ok i) :
    IsEncodingAt c .frameRx bs i := by
  unfold decodeFrameRx at h
  split at h
  · rename_i h0 h1 h2 len lc rest
    split at h
    · cases h
    · rename_i hpre
      have hbytes : h0 :: h1 :: h2 :: len :: lc :: rest = preamble ++ len :: lc :: rest := by
        rw [← not_not.mp hpre]
        rfl
      rw [hbytes]
      split at h
      · rename_i happ
        obtain ⟨rfl, rfl⟩ := happ
        split at h
        · cases h
          exact ⟨rfl, rfl, rfl⟩
        · cases h
      · split at h
        · rename_i hext
          obtain ⟨rfl, rfl⟩ := hext
          cases h
          exact ⟨rfl, rfl, rfl⟩
        · split at h
          · cases h
          · rename_i hsum
            split at h
            · cases h
            · rename_i hshort
              obtain ⟨cc, p, rfl, hp, e⟩ := normalFrame_of_decodeNormal hsum hshort h
              exact ⟨rfl, decide_eq_true hp, e.symm⟩
  · cases h

theorem decodeFrameTx_isEncoding {c : Params} {bs : List Byte} {i : Instr} (h : decodeFrameTx bs = .ok i) :
    IsEncodingAt c .frameTx bs i := by
  unfold decodeFrameTx at h
  split at h
  · rename_i h0 h1 h2 len lc rest
    split at h
    · cases h
    · rename_i hpre
      split at h
      · cases h
      · rename_i hsum
        split at h
        · cases h
        · rename_i hshort
          obtain ⟨cc, p, rfl, hp, e⟩ := normalFrame_of_decodeNormal hsum hshort h
          refine ⟨rfl, decide_eq_true hp, ?_⟩
          rw [encode, ← e, ← not_not.mp hpre]
          rfl
  · cases h

theorem decodeCascBuf_isEncoding {c : Params} {bs : List Byte} {i : Instr} (h : decodeCascBuf bs = .ok i) :
    IsEncodingAt c .cascBuf bs i := by
  unfold decodeCascBuf at h
  split at h
  · cases h
    exact ⟨rfl, rfl, rfl⟩
  · split at h
    · rename_i htag
      cases h
      exact ⟨rfl, rfl, by rw [htag]; rfl⟩
    · cases h
  · split at h
    · rename_i htags
      obtain ⟨rfl, rfl⟩ := htags
      cases h
      exact ⟨rfl, rfl, rfl⟩
    · cases h
  · cases h

/-- Bytes that decode are the encoding of what they decode to. -/
theorem decode_isEncoding {c : Params} {p : Port} {bs : List Byte} {i : Instr} (h : decode c p bs = .ok i) :
    IsEncodingAt c p bs i := by
  cases p <;> simp only [decode] at h
  case op =>
    split at h
    · exact decodeOp_isEncoding h
    · cases h
  case ackRx => exact decodeAckRx_isEncoding h
  case frameRx => exact decodeFrameRx_isEncoding h
  case frameTx => exact decodeFrameTx_isEncoding h
  case wakeTx =>
    split at h
    · rename_i hw
      cases h
      exact ⟨rfl, rfl, hw.symm⟩
    · cases h
  case crcPair =>
    split at h
    · cases h
      exact ⟨rfl, rfl, rfl⟩
    · cases h
  case cascBuf => exact decodeCascBuf_isEncoding h

/-- Settles O5: port by port, each test of the decoder fixes the bytes the encoder writes there; LCS and DCS are the
only bytes that pass theirs. -/
theorem encodeAfterDecode : Obligations.EncodeAfterDecode := by
  unfold Obligations.EncodeAfterDecode
  exact fun _ _ _ _ h => decode_isEncoding h

/-! ### Words of the spec and operation codes -/

/-- Bytes that are the encoding of a well-formed instruction decode to it at its port. -/
theorem decode_of_encode_eq {c : Params} (i : Instr) {bs : List Byte} (hw : i.wf c = true) (he : encode c i = bs) :
    decode c i.port bs = .ok i := he ▸ decode_encode hw

/-- Settles O6: each word is what the encoder writes for the instruction it stands for. -/
theorem specWordsDecode : Obligations.SpecWordsDecode := by
  unfold Obligations.SpecWordsDecode
  intro c
  exact ⟨decode_of_encode_eq .crca rfl rfl, decode_of_encode_eq .crcbApp rfl rfl, decode_of_encode_eq .dcs rfl rfl,
    decode_of_encode_eq .casc rfl rfl, decode_of_encode_eq .fcmd rfl rfl, decode_of_encode_eq .frecv rfl rfl,
    decode_of_encode_eq (.nfH2C 0x4A [0x01, 0x00]) rfl rfl, decode_of_encode_eq (.nfC2H 0x4B [0x00]) rfl rfl,
    decode_of_encode_eq (.apperr 0x7F 0x81 0x00) rfl rfl, decode_of_encode_eq (.ext [0x01, 0x02, 0xFD]) rfl rfl,
    decode_of_encode_eq (.casc7 0x04 0x12 0x34 0xAA 0xBB 0xCC 0xDD) rfl rfl,
    decode_of_encode_eq (.crcPair 0x26 0xCF) rfl rfl⟩

/-- A code is an operation's just when it stands in the table of 30 R86. -/
theorem exists_decodeOp_iff {opc : Byte} : (∃ i, decodeOp opc = .ok i) ↔ opc ∈ opTable.map Prod.fst := by
  constructor
  · rintro ⟨i, h⟩
    exact List.mem_map_of_mem (decodeOp_inv h)
  · intro h
    cases hl : opTable.lookup opc with
    | some i => exact ⟨i, by rw [decodeOp, hl]⟩
    | none =>
      obtain ⟨x, hx, rfl⟩ := List.mem_map.mp h
      simpa using List.lookup_eq_none_iff.mp hl x hx

/-- Settles O7: the codes of the table are the nine. -/
theorem nineOpcodesAreOperations : Obligations.NineOpcodesAreOperations := by
  unfold Obligations.NineOpcodesAreOperations
  exact fun _ _ => exists_decodeOp_iff

end Sys2Proof

namespace Sys2Proof.Machine

/-! ### The step that runs what was decoded -/

/-- With an event at the head of the agenda a step is that agent's. -/
theorem step_event {s : State} {e : Event} {rest : List Event} (h : s.agenda = e :: rest) :
    step s = ({ s with agenda := rest } : State).runEvent e := by
  unfold step; rw [h]

/-- Settles O1: the start event reads the code at the operation port, and the event changes no parameter. -/
theorem startRunsTheDecodedOperation : Obligations.StartRunsTheDecodedOperation := by
  unfold Obligations.StartRunsTheDecodedOperation
  intro s opc rest h
  rw [step_event h, State.runEvent]
  cases hd : decode s.cfg .op [opc] with
  | ok i =>
    refine ⟨fun j hj => ?_, fun hn => absurd rfl (hn i)⟩
    cases hj
    rfl
  | error e =>
    refine ⟨fun j hj => ?_, fun _ => rfl⟩
    cases hj

/-- A format that bytes decode to, at the acknowledge or the response port, is received as those bytes are. -/
theorem exec_of_decode {s : State} {bs : List Byte} {p : Port} {i : Instr} (hp : p = .ackRx ∨ p = .frameRx)
    (h : decode s.cfg p bs = .ok i) : exec i s = s.receive bs := by
  obtain ⟨hport, -, henc⟩ := decode_isEncoding h
  have hi : isReceived i = true := by
    obtain rfl | rfl := hp <;> rw [isReceived, hport] <;> rfl
  rw [exec_received hi, henc]

theorem decodeFirst_some {c : Params} {bs : List Byte} {i : Instr} : ∀ {ports : List Port},
    decodeFirst c bs ports = some i → ∃ p ∈ ports, decode c p bs = .ok i
  | p :: ports, h => by
    unfold decodeFirst at h
    split at h
    · rename_i hd
      cases h
      exact ⟨p, List.mem_cons_self, hd⟩
    · obtain ⟨q, hq, hd⟩ := decodeFirst_some h
      exact ⟨q, List.mem_cons_of_mem p hq, hd⟩

/-- Bytes on the wire are received as they are, whichever format they are, or none (log 14). -/
theorem runEvent_wire (s : State) (bs : List Byte) : s.runEvent (.wire bs) = s.receive bs := by
  unfold State.runEvent
  dsimp only
  split
  · rename_i i hd
    obtain ⟨p, hp, h⟩ := decodeFirst_some hd
    exact exec_of_decode (by simpa [or_comm] using hp) h
  · rfl

/-- Settles O2: the step and the format's `exec` both receive the bytes as they are, so it does not matter at which of
the two ports they decode first. -/
theorem wireRunsTheDecodedFormat : Obligations.WireRunsTheDecodedFormat := by
  unfold Obligations.WireRunsTheDecodedFormat
  intro s bs rest p i hag hp h
  rw [step_event hag, runEvent_wire, exec_of_decode (s := { s with agenda := rest }) hp h]

/-! ### The layouts -/

/-- An operation or a layout that is started in IDLE inside the buffers completes. -/
theorem start_idle {s t : State} {ok : Bool} (hf : s.fsm = .idle) (hok : ok = true) : s.start ok t = .next t := by
  rw [State.start, if_pos hf, if_pos hok]

/-- Writing the FSM state that the block is in already changes nothing. -/
theorem fsm_self {s : State} {f : Fsm} (hf : s.fsm = f) : { s with fsm := f } = s := by
  subst hf
  rfl

/-- An append writes DBUF, CRCR, RLEN and the status pair, and leaves the block idle (40 R104, R106). -/
theorem State.appendCrc_frame (s : State) (c : Half) :
    { s.appendCrc c with dbuf := s.dbuf, crcr := s.crcr, rlen := s.rlen, status := s.status, errinfo := s.errinfo } =
      { s with fsm := .idle } := by
  obtain ⟨-, -, -, -, hstate⟩ := s.appendCrc_spec c
  rw [hstate]

/-- The layout of a CRC's two bytes is the end of an append of that CRC (40 R104, R106). -/
theorem exec_crcPair_of_crc (c : Half) (s : State) : exec (.crcPair (crcLo c) (crcHi c)) s =
    s.start (s.fits .dbuf s.len.toNat 2) (s.appendCrc c) := by
  rw [exec, execCrcPair, pair_of_crc]

/-- Settles O18: the pair is appended as the CRC of which it is the two bytes. -/
theorem crcPairIsLaidDown : Obligations.CrcPairIsLaidDown := by
  unfold Obligations.CrcPairIsLaidDown
  intro s hf hfit
  refine ⟨fun lo hi => ?_, (exec_crcPair_of_crc _ s).symm, (exec_crcPair_of_crc _ s).symm, rfl, rfl⟩
  obtain ⟨hlo, hhi, hframe, hrlen, -⟩ := s.appendCrc_spec (hi ++ lo)
  rw [crcLo_pair] at hlo
  rw [crcHi_pair] at hhi
  exact ⟨_, start_idle hf (decide_eq_true hfit), pair_toNat lo hi, hlo, hhi, hrlen, rfl, rfl, hframe,
    (s.appendCrc_frame _).trans (fsm_self hf)⟩

/-- CASC lays down the layout of the bytes it reads (41 R121). -/
theorem exec_casc_of_layout {s : State} {n : Nat} {uid bs : List Byte} (hl : s.len = 4 ∨ s.len = 7 ∨ s.len = 10)
    (hn : s.len.toNat = n) (hu : s.memRead .uidbuf 0 n = uid) (hb : cascadeUid uid = some bs) :
    exec .casc s = s.start true (s.layCascade bs) := by
  rw [exec, execCasc, State.cascade, if_pos hl, hn, hu, hb]

/-- Settles O20: each layout is the laying of its bytes, and CASC's table gives those bytes for its three lengths. -/
theorem cascadeLayoutsAreLaidDown : Obligations.CascadeLayoutsAreLaidDown := by
  unfold Obligations.CascadeLayoutsAreLaidDown
  intro s u0 u1 u2 u3 u4 u5 u6 u7 u8 u9 i out hf hi
  have hexec : exec i s = .next (s.layCascade out) ∧ out.length ≤ 12 := by
    obtain ⟨rfl, rfl⟩ | ⟨rfl, rfl⟩ | ⟨rfl, rfl⟩ := hi <;> exact ⟨start_idle hf rfl, by simp⟩
  obtain ⟨hnext, hlen⟩ := hexec
  obtain ⟨hread, hframe, hrlen, -⟩ := s.layCascade_spec hlen
  exact ⟨⟨_, hnext, hread, hrlen, rfl, rfl, hframe, fsm_self hf⟩,
    fun hl hu => exec_casc_of_layout (.inl hl) (congrArg BitVec.toNat hl) hu rfl,
    fun hl hu => exec_casc_of_layout (.inr (.inl hl)) (congrArg BitVec.toNat hl) hu rfl,
    fun hl hu => exec_casc_of_layout (.inr (.inr hl)) (congrArg BitVec.toNat hl) hu rfl⟩

/-! ### The received formats, the stream empty and the receive succeeding -/

/-- The state after a receive of `n` bytes that left `more` in the stream. -/
def State.afterTaking (s : State) (rest : List Answer) (n : Nat) (more : List Byte) : State :=
  { s with answers := rest, calls := .recv n s.tmo :: s.calls, pending := more }

@[simp] theorem State.afterTaking_cfg (s : State) (rest : List Answer) (n : Nat) (more : List Byte) :
    (s.afterTaking rest n more).cfg = s.cfg := rfl

section

variable {s : State} {lost n : Nat} {rest : List Answer} {bs : List Byte}
  (hp : s.pending = []) (ha : s.answers = ⟨[], .ok, lost⟩ :: rest)
include hp ha

/-- The receive gives the first `n` of the bytes that have just come and leaves the others. -/
theorem recv_arrived (more : List Byte) (hn : bs.length = n) : (s.arrive (bs ++ more)).recvReply n = .ok bs ∧
    (s.arrive (bs ++ more)).afterRecv n = s.afterTaking rest n more := by
  have hp' : (s.arrive (bs ++ more)).pending = bs ++ more := by simp [hp]
  exact ⟨State.recvReply_next ha hp' hn, State.afterRecv_next ha hp' hn⟩

/-- In AWAIT_ACK the six bytes that come are classified (42 R138). -/
theorem receive_onAck (hf : s.fsm = .awaitAck) (more : List Byte) (hn : bs.length = 6) :
    s.receive (bs ++ more) = .next ((s.afterTaking rest 6 more).onAck bs) := by
  obtain ⟨hok, hafter⟩ := recv_arrived hp ha more hn
  simp [State.receive, hf, Fsm.receives, State.blockStep, State.stepAwaitAck, hok, hafter]

/-- In RS_ACK the six bytes that come end the operation unless they are an ERR_FRAME with bytes to drain (43 R176). -/
theorem receive_onProbeAck (hf : s.fsm = .rsAck) (more : List Byte) (hn : bs.length = 6) :
    s.receive (bs ++ more) = .next
      (if ackClassify s.cfg bs = .err ∧ 0 < s.cfg.errTrail then { s.afterTaking rest 6 more with fsm := .rsDrain }
       else (s.afterTaking rest 6 more).raise .aborted 0) := by
  obtain ⟨hok, hafter⟩ := recv_arrived hp ha more hn
  simp [State.receive, hf, Fsm.receives, State.blockStep, State.stepRsAck, hok, hafter]

/-- In RX_HDR, no abort pending, the five bytes that come are the header (42 R145). -/
theorem receive_onHeader (hf : s.fsm = .rxHdr) (hab : s.abortp = false) (more : List Byte) (hn : bs.length = 5) :
    s.receive (bs ++ more) = .next ((s.afterTaking rest 5 more).onHeader bs) := by
  obtain ⟨hok, hafter⟩ := recv_arrived hp ha more hn
  simp [State.receive, hf, Fsm.receives, State.blockStep, State.unlessAborted, hab, State.stepRxHdr, hok, hafter]

end

/-- ACK_FRAME ends the command with success (42 R139). -/
theorem onAck_ackFrame {s : State} {c : Params} (hc : s.cfg = c) : s.onAck c.ackFrame = s.doneLen 0 := by
  rw [State.onAck, hc, ackClassify_ackFrame]

/-- ERR_FRAME ends the command, or leads to the drain of the bytes that follow it (42 R140). -/
theorem onAck_errFrame {s : State} {c : Params} (hc : s.cfg = c) : s.onAck c.errFrame =
    if c.errTrail = 0 then s.raise .protocolError 0 else { s with fsm := .errDrain } := by
  rw [State.onAck, hc, ackClassify_errFrame]

/-- The header of a normal frame: it is accepted if the payload fits CAPL (42 R151). -/
theorem onHeader_normal (s : State) {p : List Byte} (h : p.length ≤ 253) :
    s.onHeader [0x00, 0x00, 0xFF, lenByte p, lcs (lenByte p)] =
      if s.capl.toNat < p.length then s.raise .bufferTooSmall 0
      else { s with plen := BitVec.ofNat 8 p.length, fsm := .rxTc } := by
  have hlen := lenByte_toNat h
  have hplen : lenByte p - 2 = BitVec.ofNat 8 p.length := by
    simp [lenByte, BitVec.ofNat_add]
  rw [State.onHeader, classifyHeader_normal h]
  dsimp only
  rw [hlen, hplen, Nat.add_sub_cancel]

/-- Settles O39: the six bytes that AWAIT_ACK and RS_ACK receive are ACK_FRAME or ERR_FRAME, and the classifier tells
them apart. -/
theorem acknowledgeFormats : Obligations.AcknowledgeFormats := by
  unfold Obligations.AcknowledgeFormats
  intro s r lost rest hp ha hr
  subst hr
  have hack : exec .ack s = s.receive (s.cfg.ackFrame ++ []) := by rw [List.append_nil]; rfl
  have herr (tail : List Byte) : exec (.err tail) s = s.receive (s.cfg.errFrame ++ tail) := rfl
  refine ⟨fun hf => ⟨?_, fun tail => ?_⟩, fun hf => ⟨?_, fun tail => ?_⟩⟩
  · rw [hack, receive_onAck hp ha hf [] s.cfg.ackFrame_length, onAck_ackFrame (State.afterTaking_cfg ..)]
    simp [State.afterTaking, State.doneLen, State.done, statusOk, hp]
  · rw [herr, receive_onAck hp ha hf tail s.cfg.errFrame_length, onAck_errFrame (State.afterTaking_cfg ..)]
    rfl
  · rw [hack, receive_onProbeAck hp ha hf [] s.cfg.ackFrame_length]
    simp [State.afterTaking, State.raise, ErrKind.code, hp]
  · rw [herr, receive_onProbeAck hp ha hf tail s.cfg.errFrame_length, ackClassify_errFrame]
    by_cases ht : s.cfg.errTrail = 0
    · simp [State.afterTaking, State.raise, ErrKind.code, ht]
    · simp [State.afterTaking, ht, Nat.pos_of_ne_zero ht]

/-- Settles O40: the first five bytes of each format are the header that RX_HDR tells apart; the others stay pending. -/
theorem responseFormatsInRxHdr : Obligations.ResponseFormatsInRxHdr := by
  unfold Obligations.ResponseFormatsInRxHdr
  intro s r lost rest hp ha hf hab hr
  subst hr
  refine ⟨fun x0 x1 x2 => ?_, fun more => ?_, fun cc p hlen => ?_⟩
  · exact receive_onHeader hp ha hf hab [x0, x1, x2] (bs := apperrMarker) rfl
  · exact receive_onHeader hp ha hf hab more (bs := extMarker) rfl
  · have hsplit : encode s.cfg (.nfC2H cc p) =
        [0x00, 0x00, 0xFF, lenByte p, lcs (lenByte p)] ++ (encode s.cfg (.nfC2H cc p)).drop 5 := by
      rw [encode, normalFrame_eq]
      rfl
    have hexec : exec (.nfC2H cc p) s = s.receive (encode s.cfg (.nfC2H cc p)) := rfl
    rw [hexec, hsplit, receive_onHeader hp ha hf hab _ rfl, onHeader_normal _ hlen, ← hsplit]
    rfl

/-! ### The sent formats -/

/-- The BLOCK is about to send a frame in TX_SEND and in RS_SEND only (42 R137, 43 R175). -/
theorem frameToSend_eq_some {s : State} {bs : List Byte} :
    s.frameToSend = some bs ↔ s.fsm = .txSend ∧ s.txFrame = bs ∨ s.fsm = .rsSend ∧ s.probeFrame = bs := by
  unfold State.frameToSend
  split
  · rename_i hf
    simp [hf]
  · rename_i hf
    simp [hf]
  · rename_i htx hrs
    exact ⟨nofun, fun h => h.elim (fun h => (htx h.1).elim) fun h => (hrs h.1).elim⟩

theorem exec_nfH2C_of_frameToSend {s : State} {cc : Byte} {p : List Byte} (h : s.frameToSend = some (buildFrame cc p)) :
    exec (.nfH2C cc p) s = s.blockStep := if_pos h

/-- The built frame is sent from inside TXBUF (42 R137). -/
theorem blockStep_txSend {s : State} (hf : s.fsm = .txSend) (hlen : s.txlen.toNat ≤ 262) (hok : s.sendFails = none) :
    s.blockStep = .next { s.afterSend s.txFrame with fsm := .awaitAck } := by
  have hfits : s.fits .txbuf 0 s.txlen.toNat = true := decide_eq_true (by simpa [bufCapacity] using hlen)
  simp [State.blockStep, hf, State.inside, hfits, State.stepTxSend, hok]

/-- The probe's step sends the probe frame once, whatever the answer (43 R175). -/
theorem stepRsSend_calls (s : State) : s.stepRsSend.calls = .send s.probeFrame s.tmo :: s.calls := by
  unfold State.stepRsSend
  split <;> simp

/-- Settles O41: a sent format is the BLOCK's send step where the BLOCK holds that frame, and no step elsewhere. -/
theorem sentFormatsAreSent : Obligations.SentFormatsAreSent := by
  unfold Obligations.SentFormatsAreSent
  intro s
  refine ⟨fun cc p hf hlen hok hframe => ?_, fun cc p hf hcc hp => ?_, fun hf => ?_, fun cc p htx hrs => ?_,
    fun hf => ?_⟩
  · rw [exec_nfH2C_of_frameToSend (frameToSend_eq_some.mpr (.inl ⟨hf, hframe⟩)), blockStep_txSend hf hlen hok, ← hframe]
    rfl
  · subst hcc hp
    refine ⟨s.stepRsSend, ?_, stepRsSend_calls s⟩
    rw [exec_nfH2C_of_frameToSend (frameToSend_eq_some.mpr (.inr ⟨hf, rfl⟩)), State.blockStep, hf]
  · rw [exec, execWake, if_pos hf, State.blockStep, hf]
    rfl
  · exact if_neg fun h => (frameToSend_eq_some.mp h).elim htx hrs
  · exact if_neg hf

end Sys2Proof.Machine
end

