-- ==== Sys2Proof/Proofs/Checksum.lean ====
section
/-! PROOF. The checksum unit of 40_checksum_unit.md: the CRC recurrence, its bit-serial form and its residues (R101,
R102, R107, R112); and what the five operations CRCA, CRCA.APP, CRCB, CRCB.APP and DCS do (R103 to R106, R109). -/

namespace Sys2Proof.Machine

/-! ### The recurrence and its fold -/

/-- The recurrence sees the running value through two parts: its high byte, which moves down, and its low byte, which is
only ever XORed with the data byte (40 R101). -/
theorem crcStep_eq (c : Half) (d : Byte) : crcStep c d = (c >>> 8) ^^^ crcStep 0 (d ^^^ crcLo c) := by
  simp [crcStep, crcLo, BitVec.xor_assoc]

/-- A byte moved up by at most 8 places still fits 16 bits. -/
theorem toNat_setWidth_shiftLeft (b : Byte) {k : Nat} (hk : k ≤ 8) :
    (b.setWidth 16 <<< k : Half).toNat = b.toNat <<< k := by
  have hb : b.toNat < 2 ^ 8 := b.isLt
  have hfit : b.toNat <<< k < 2 ^ 16 :=
    calc b.toNat <<< k = b.toNat * 2 ^ k := Nat.shiftLeft_eq _ _
      _ < 2 ^ 8 * 2 ^ k := Nat.mul_lt_mul_of_pos_right hb (Nat.two_pow_pos k)
      _ ≤ 2 ^ 8 * 2 ^ 8 := Nat.mul_le_mul_left _ (Nat.pow_le_pow_right Nat.two_pos hk)
  rw [BitVec.toNat_shiftLeft, BitVec.toNat_setWidth_of_le (by decide), Nat.mod_eq_of_lt hfit]

/-- The recurrence on naturals: only the byte `b` is cut, and no term of the last line is (40 R101). -/
theorem crcStep_toNat (crc : Half) (d : Byte) {b0 b : Nat} (hb0 : b0 = d.toNat ^^^ (crc.toNat % 256))
    (hb : b = (b0 ^^^ (b0 <<< 4)) % 256) :
    (crcStep crc d).toNat = (crc.toNat >>> 8) ^^^ (b <<< 8) ^^^ (b <<< 3) ^^^ (b >>> 4) := by
  have h0 : (d ^^^ crc.setWidth 8).toNat = b0 := by rw [hb0, BitVec.toNat_xor, BitVec.toNat_setWidth]
  have h1 : ((d ^^^ crc.setWidth 8) ^^^ ((d ^^^ crc.setWidth 8) <<< 4)).toNat = b := by
    have hlt : b0 < 2 ^ 8 := h0 ▸ BitVec.isLt _
    rw [BitVec.toNat_xor, BitVec.toNat_shiftLeft, h0, hb, show 256 = 2 ^ 8 from rfl, Nat.xor_mod_two_pow,
      Nat.mod_eq_of_lt hlt]
  simp only [crcStep, BitVec.toNat_xor, BitVec.toNat_ushiftRight]
  rw [toNat_setWidth_shiftLeft _ (by decide), toNat_setWidth_shiftLeft _ (by decide),
    BitVec.toNat_setWidth_of_le (by decide), h1]

/-- The bytes that follow go on from the value reached, one recurrence each (40 R102). -/
theorem crc16_append (seed : Half) (xs ys : List Byte) :
    crc16 seed false (xs ++ ys) = ys.foldl crcStep (crc16 seed false xs) := List.foldl_append

/-- The complement is one XOR at the end (40 R102). -/
theorem crc16_compl (seed : Half) (data : List Byte) : crc16 seed true data = ~~~ (crc16 seed false data) := rfl

/-- Settles O10: the recurrence is computed on naturals term by term, and the core function is a left fold. -/
theorem crcFoldsTheRecurrence : Obligations.CrcFoldsTheRecurrence := by
  unfold Obligations.CrcFoldsTheRecurrence
  refine ⟨fun crc d _ _ => crcStep_toNat crc d, fun seed data d => ⟨rfl, crc16_append seed data [d], ?_⟩⟩
  rw [crc16_compl, ← BitVec.xor_allOnes]
  rfl

/-! ### The bit-serial generator -/

/-- One shift of the generator is linear: whether the constant is added is decided by one bit (40 R107). -/
theorem crcShift_xor (a b : Half) : crcShift (a ^^^ b) = crcShift a ^^^ crcShift b := by
  unfold crcShift
  rw [BitVec.getLsbD_xor, BitVec.ushiftRight_xor_distrib]
  cases a.getLsbD 0 <;> cases b.getLsbD 0
  · rfl
  · exact BitVec.xor_assoc _ _ _
  · show (a >>> 1 ^^^ b >>> 1) ^^^ 0x8408 = (a >>> 1 ^^^ 0x8408) ^^^ b >>> 1
    ac_rfl
  · calc a >>> 1 ^^^ b >>> 1 = (a >>> 1 ^^^ b >>> 1) ^^^ (0x8408 ^^^ 0x8408) := by simp
      _ = (a >>> 1 ^^^ 0x8408) ^^^ (b >>> 1 ^^^ 0x8408) := by ac_rfl

/-- A byte's eight shifts are linear in the register, so a part of it may be shifted by itself. -/
theorem crcSerialStep_xor (a b : Half) (d : Byte) :
    crcSerialStep (a ^^^ b) d = crcSerialStep a 0 ^^^ crcSerialStep b d := by
  have ha : a ^^^ (0 : Byte).setWidth 16 = a := BitVec.xor_zero
  simp only [crcSerialStep, ha, BitVec.xor_assoc, crcShift_xor]

/-- The data byte is XORed into the low byte before the shifts. -/
theorem crcSerialStep_low (l d : Byte) : crcSerialStep (l.setWidth 16) d = crcSerialStep 0 (d ^^^ l) := by
  have hin : l.setWidth 16 ^^^ d.setWidth 16 = (0 : Half) ^^^ (d ^^^ l).setWidth 16 := by
    rw [BitVec.setWidth_xor, BitVec.xor_comm]
    exact BitVec.zero_xor.symm
  rw [crcSerialStep, crcSerialStep, hin]

/-- A high byte moves down through the eight shifts without meeting the constant. -/
theorem crcSerialStep_high : ∀ h : Byte, crcSerialStep (h ++ 0#8) 0 = h.setWidth 16 := by decide

/-- From a zero register both forms give the same value for each of the 256 bytes. -/
theorem crcSerialStep_zero : ∀ d : Byte, crcSerialStep 0 d = crcStep 0 d := by decide

/-- A register is its high byte, over zeros, and its low byte. -/
theorem crc_split (c : Half) : c = (crcHi c ++ 0#8) ^^^ (crcLo c).setWidth 16 := by
  have hlow : (crcLo c).setWidth 16 = 0#8 ++ crcLo c := BitVec.setWidth_eq_append (by decide)
  rw [hlow, BitVec.xor_append, BitVec.xor_zero, BitVec.zero_xor, pair_of_crc]

/-- The two forms of one byte agree: the generator is linear, so the two bytes of the register may be followed apart.
The high one only moves down, and the low one meets the data byte, as in the recurrence (40 R107). -/
theorem crcSerialStep_eq_crcStep (c : Half) (d : Byte) : crcSerialStep c d = crcStep c d := by
  have hhigh : (crcHi c).setWidth 16 = c >>> 8 := by
    apply BitVec.eq_of_toNat_eq
    have := c.isLt
    simp only [crcHi, BitVec.toNat_setWidth, BitVec.toNat_ushiftRight, Nat.shiftRight_eq_div_pow]
    omega
  calc crcSerialStep c d
      = crcSerialStep ((crcHi c ++ 0#8) ^^^ (crcLo c).setWidth 16) d := by rw [← crc_split]
    _ = (crcHi c).setWidth 16 ^^^ crcSerialStep 0 (d ^^^ crcLo c) := by
      rw [crcSerialStep_xor, crcSerialStep_high, crcSerialStep_low]
    _ = (c >>> 8) ^^^ crcStep 0 (d ^^^ crcLo c) := by rw [hhigh, crcSerialStep_zero]
    _ = crcStep c d := (crcStep_eq c d).symm

/-- Settles O11: the two forms agree byte by byte, so their folds agree. -/
theorem crcEqualsBitSerial : Obligations.CrcEqualsBitSerial := by
  unfold Obligations.CrcEqualsBitSerial
  intro seed data
  have hstep : crcStep = crcSerialStep := funext₂ fun c d => (crcSerialStep_eq_crcStep c d).symm
  show data.foldl crcStep seed = data.foldl crcSerialStep seed
  rw [hstep]

/-! ### The residues -/

/-- The recurrence on a register's own low byte, masked by `m`, forgets that byte: only `m` is left of it. -/
theorem crcStep_own_low (c : Half) (m : Byte) : crcStep c (crcLo c ^^^ m) = (c >>> 8) ^^^ crcStep 0 m := by
  have hlow : (crcLo c ^^^ m) ^^^ crcLo c = m := by
    rw [BitVec.xor_comm (crcLo c), BitVec.xor_assoc, BitVec.xor_self, BitVec.xor_zero]
  rw [crcStep_eq, hlow]

/-- After its own two bytes, each masked by `m`, nothing is left of a register but what `m` brings in. -/
theorem crcStep_own_bytes (c : Half) (m : Byte) :
    crcStep (crcStep c (crcLo c ^^^ m)) (crcHi c ^^^ m) =
      (crcStep 0 m >>> 8) ^^^ crcStep 0 (crcLo (crcStep 0 m) ^^^ m) := by
  have hhi : crcHi c = crcLo ((c >>> 8) ^^^ crcStep 0 m) ^^^ crcLo (crcStep 0 m) := by
    rw [crcLo, BitVec.setWidth_xor, crcLo, BitVec.xor_assoc, BitVec.xor_self, BitVec.xor_zero, crcHi]
  have hzero : c >>> 8 >>> 8 = 0#16 := by rw [← BitVec.shiftRight_add, BitVec.ushiftRight_eq_zero (by decide)]
  rw [crcStep_own_low, hhi, BitVec.xor_assoc, crcStep_own_low, BitVec.ushiftRight_xor_distrib, hzero, BitVec.zero_xor]

/-- The bytes of a complemented CRC are the CRC's own, each masked by 0xFF. -/
theorem crcLo_not (c : Half) : crcLo (~~~ c) = crcLo c ^^^ 0xFF := by
  rw [crcLo, ← BitVec.xor_allOnes, BitVec.setWidth_xor]
  rfl

/-- And so for the high byte. -/
theorem crcHi_not (c : Half) : crcHi (~~~ c) = crcHi c ^^^ 0xFF := by
  rw [crcHi, ← BitVec.xor_allOnes, BitVec.ushiftRight_xor_distrib, BitVec.setWidth_xor]
  rfl

/-- Settles O12: the two bytes that follow are the register's own, for B each complemented. -/
theorem crcResidues : Obligations.CrcResidues := by
  unfold Obligations.CrcResidues
  refine fun data => ⟨?_, ?_⟩
  · have h := crcStep_own_bytes (crc16 0x6363 false data) 0#8
    rw [BitVec.xor_zero, BitVec.xor_zero] at h
    rw [crc16_append]
    exact h.trans (by decide)
  · rw [crc16_append, crc16_compl, crcLo_not, crcHi_not]
    exact (crcStep_own_bytes (crc16 0xFFFF false data) 0xFF).trans (by decide)

/-! ### The operations -/

/-- An operation that reads the first `n` bytes of a buffer: when it is refused, and that else it completes (40 R103,
R105, R109). -/
theorem start_reading (s t : State) (b : Buf) (n : Nat) :
    (s.fsm ≠ .idle → s.start (s.fits b 0 n) t = .refused .busy) ∧
    (s.fsm = .idle → bufCapacity s.cfg b < n → s.start (s.fits b 0 n) t = .refused .outsideBuffer) ∧
    (s.fsm = .idle → n ≤ bufCapacity s.cfg b → s.start (s.fits b 0 n) t = .next t) := by
  refine ⟨fun hf => if_neg hf, fun hf h => ?_, fun hf h => ?_⟩
  · have hout : s.fits b 0 n = false := by simpa [State.fits] using h
    rw [State.start, if_pos hf, hout]
    rfl
  · exact start_idle hf (by simpa [State.fits] using h)

/-- Where the block is idle already `done` writes the status pair only (00 R9). -/
theorem done_of_idle {s : State} (hf : s.fsm = .idle) : s.done = { s with status := 0x00, errinfo := 0 } :=
  fsm_self (s := { s with status := 0x00, errinfo := 0 }) hf

/-- An operation that computes `c` from `DBUF[0..LEN)` and does not append it: when it is refused, and that else it
writes CRCR and the status pair only (40 R103, R105). -/
theorem start_finishCrc (s : State) (c : Half) :
    (s.fsm ≠ .idle → s.start (s.fits .dbuf 0 s.len.toNat) (s.finishCrc c) = .refused .busy) ∧
    (s.fsm = .idle → s.cfg.dcap < s.len.toNat →
      s.start (s.fits .dbuf 0 s.len.toNat) (s.finishCrc c) = .refused .outsideBuffer) ∧
    (s.fsm = .idle → s.len.toNat ≤ s.cfg.dcap →
      s.start (s.fits .dbuf 0 s.len.toNat) (s.finishCrc c) =
        .next { s with crcr := c, status := 0x00, errinfo := 0 }) := by
  obtain ⟨hbusy, hout, hin⟩ := start_reading s (s.finishCrc c) .dbuf s.len.toNat
  refine ⟨hbusy, hout, fun hf hl => (hin hf hl).trans ?_⟩
  rw [State.finishCrc, done_of_idle hf]

/-- Settles O13: CRCA is the operation that does not append, with the A CRC of `DBUF[0..LEN)`. -/
theorem crcaResult : Obligations.CrcaResult := by
  unfold Obligations.CrcaResult
  exact fun s => ⟨rfl, start_finishCrc s s.crcA⟩

/-- Settles O14: CRCB is the operation that does not append, with the B CRC of `DBUF[0..LEN)`. -/
theorem crcbResult : Obligations.CrcbResult := by
  unfold Obligations.CrcbResult
  exact fun s => ⟨rfl, start_finishCrc s s.crcB⟩

/-- Settles O17: the data checksum goes to DCSR, and LEN is compared with PCAP only. -/
theorem dcsResult : Obligations.DcsResult := by
  unfold Obligations.DcsResult
  intro s
  obtain ⟨hbusy, hout, hin⟩ :=
    start_reading s { s.done with dcsr := dcs s.tfi s.cmd s.payloadBytes } .pbuf s.len.toNat
  refine ⟨rfl, hbusy, hout, fun hf hl => (hin hf hl).trans ?_⟩
  rw [done_of_idle hf]
  rfl

/-- Settles O15: both operations end by the append of their CRC. -/
theorem crcAppendResult : Obligations.CrcAppendResult := by
  unfold Obligations.CrcAppendResult
  intro s i c hf hfit hi
  have hexec : exec i s = .next (s.appendCrc c) := by
    obtain ⟨rfl, rfl⟩ | ⟨rfl, rfl⟩ := hi <;> exact start_idle hf (decide_eq_true hfit)
  obtain ⟨hlo, hhi, hframe, hrlen, -⟩ := s.appendCrc_spec c
  exact ⟨_, hexec, rfl, hlo, hhi, hrlen, rfl, rfl, hframe, (s.appendCrc_frame c).trans (fsm_self hf)⟩

@[simp] theorem State.appendCrc_cfg (s : State) (c : Half) : (s.appendCrc c).cfg = s.cfg := by simp [State.appendCrc]
@[simp] theorem State.appendCrc_len (s : State) (c : Half) : (s.appendCrc c).len = s.len := by simp [State.appendCrc]

/-- After an append of `c` an operation that computes `c` once more completes, and CRCR is the appended pair. -/
theorem recompute_appended {s : State} {c : Half} (hlen : s.len.toNat + 2 ≤ s.cfg.dcap) :
    ∃ u, (s.appendCrc c).start ((s.appendCrc c).fits .dbuf 0 (s.appendCrc c).len.toNat)
        ((s.appendCrc c).finishCrc c) = .next u ∧
      u.crcr.setWidth 8 = (s.appendCrc c).readByte .dbuf s.len.toNat ∧
      (u.crcr >>> 8).setWidth 8 = (s.appendCrc c).readByte .dbuf (s.len.toNat + 1) := by
  obtain ⟨hlo, hhi, -⟩ := s.appendCrc_spec c
  obtain ⟨-, -, hin⟩ := start_reading (s.appendCrc c) ((s.appendCrc c).finishCrc c) .dbuf (s.appendCrc c).len.toNat
  have hfit : (s.appendCrc c).len.toNat ≤ bufCapacity (s.appendCrc c).cfg .dbuf := by
    rw [State.appendCrc_len, State.appendCrc_cfg, bufCapacity]
    omega
  exact ⟨_, hin rfl hfit, hlo.symm, hhi.symm⟩

/-- Settles O16: the append leaves the data as they were, so the CRC over them is the appended one. -/
theorem appendThenRecompute : Obligations.AppendThenRecompute := by
  unfold Obligations.AppendThenRecompute
  refine fun s t hlen => ⟨fun h => ?_, fun h => ?_⟩
  · obtain ⟨-, -, rfl⟩ := start_next h
    have hcrc : (s.appendCrc s.crcA).crcA = s.crcA := congrArg (crc16 seedA false) (s.dataBytes_appendCrc _)
    rw [exec, execCrca, hcrc]
    exact recompute_appended hlen
  · obtain ⟨-, -, rfl⟩ := start_next h
    have hcrc : (s.appendCrc s.crcB).crcB = s.crcB := congrArg (crc16 seedB true) (s.dataBytes_appendCrc _)
    rw [exec, execCrcb, hcrc]
    exact recompute_appended hlen

end Sys2Proof.Machine
end

/-! PROOF. The UID cascade encoder of 41_uid_cascade.md: CASC's three encodings, and its refusal of every other length by
InvalidUidLength (R121, R122). -/

namespace Sys2Proof.Machine

/-- The lengths that CASC accepts, with the bytes it makes of those in UIDBUF (41 R121). -/
theorem cascadeUid_of_row {s : State} {out : List Byte}
    (h : s.len.toNat = 4 ∧ out = s.memRead .uidbuf 0 4 ∨
      s.len.toNat = 7 ∧ out = 0x88 :: s.memRead .uidbuf 0 7 ∨
      s.len.toNat = 10 ∧ out = 0x88 :: s.memRead .uidbuf 0 3 ++ 0x88 :: s.memRead .uidbuf 3 7) :
    (s.len = 4 ∨ s.len = 7 ∨ s.len = 10) ∧ cascadeUid (s.memRead .uidbuf 0 s.len.toNat) = some out := by
  obtain ⟨hn, rfl⟩ | ⟨hn, rfl⟩ | ⟨hn, rfl⟩ := h <;> rw [hn]
  · exact ⟨.inl (BitVec.eq_of_toNat_eq hn), rfl⟩
  · exact ⟨.inr (.inl (BitVec.eq_of_toNat_eq hn)), rfl⟩
  · exact ⟨.inr (.inr (BitVec.eq_of_toNat_eq hn)), rfl⟩

/-- For a LEN beside the table CASC ends in InvalidUidLength (41 R121). -/
theorem cascade_of_bad_length {s : State} (h4 : s.len.toNat ≠ 4) (h7 : s.len.toNat ≠ 7) (h10 : s.len.toNat ≠ 10) :
    s.cascade = s.raise .invalidUidLength 0 := by
  refine if_neg ?_
  rintro (h | h | h)
  · exact h4 (congrArg BitVec.toNat h)
  · exact h7 (congrArg BitVec.toNat h)
  · exact h10 (congrArg BitVec.toNat h)

/-- Where the block is idle already `raise` writes the status pair only (00 R9). -/
theorem raise_of_idle {s : State} (hf : s.fsm = .idle) (e : ErrKind) (info : Word) :
    s.raise e info = { s with status := e.code, errinfo := info } :=
  fsm_self (s := { s with status := e.code, errinfo := info }) hf

/-- Settles O19: a row of the table is the laying of its bytes, which fit CASCBUF; every other LEN is the error. -/
theorem cascEncodesTheUid : Obligations.CascEncodesTheUid := by
  unfold Obligations.CascEncodesTheUid
  refine fun s => ⟨rfl, fun hf => if_neg hf, fun hf => ⟨fun out hrow => ?_, fun h4 h7 h10 => ?_⟩⟩
  · obtain ⟨hlen, huid⟩ := cascadeUid_of_row hrow
    obtain ⟨hread, hframe, hrlen, -⟩ := s.layCascade_spec (cascadeUid_length huid)
    have hnext : exec .casc s = .next (s.layCascade out) :=
      (exec_casc_of_layout hlen rfl rfl huid).trans (start_idle hf rfl)
    exact ⟨_, hnext, hread, hrlen, rfl, rfl, hframe, fsm_self hf⟩
  · calc exec .casc s = .next s.cascade := start_idle hf rfl
      _ = .next (s.raise .invalidUidLength 0) := by rw [cascade_of_bad_length h4 h7 h10]
      _ = .next { s with status := 0x0A, errinfo := 0 } := congrArg _ (raise_of_idle hf _ _)

end Sys2Proof.Machine

/-! PROOF. The frame codec of 42_frame_codec.md: the build step and its refusal (R131 to R136), the BLOCK's step in each
state of FCMD and FRECV (R137 to R158) and the order of these states (R160), and the two ends of a whole exchange, a
right response and a corrupted one (R162). -/

namespace Sys2Proof.Machine

/-! ### The command side -/

/-- The build step accepts a payload of at most MAX_PAYLOAD bytes (42 R132). -/
theorem payloadTooLarge_eq_false {s : State} (h : s.len.toNat ≤ s.cfg.maxPayload) : s.payloadTooLarge = false := by
  simpa [State.payloadTooLarge] using h

@[simp] theorem State.build_txlen (s : State) : s.build.txlen = s.len + 9 := rfl

/-- Settles O21: the build step, then `done(LEN + 9)`. -/
theorem fbuildBuildsTheFrame : Obligations.FbuildBuildsTheFrame := by
  unfold Obligations.FbuildBuildsTheFrame
  intro s hf hl
  obtain ⟨hread, hframe, htxlen, hstate⟩ := s.build_spec hl
  have hnext : exec .fbuild s = .next (s.build.doneLen (s.len + 9)) := by
    rw [exec, execFbuild, payloadTooLarge_eq_false hl]
    exact start_idle hf rfl
  have hbuf (b : Buf) : (s.build.doneLen (s.len + 9)).buf b = s.build.buf b := by cases b <;> rfl
  have hrlen : (s.build.doneLen (s.len + 9)).rlen.toNat = s.len.toNat + 9 := by
    rw [State.doneLen_rlen, ← State.build_txlen]
    exact htxlen
  refine ⟨_, hnext, ?_, htxlen, hrlen, rfl, rfl, rfl, fun b a hn => ?_, ?_⟩
  · exact (State.memRead_congr (hbuf .txbuf) rfl _ _).trans hread
  · exact (State.readByte_congr (hbuf b) rfl a).trans (hframe b a hn)
  · rw [hstate]
    exact fsm_self hf

/-- Settles O22: the build step, and the operation goes on in TX_SEND. -/
theorem fcmdBuildsThenSends : Obligations.FcmdBuildsThenSends := by
  unfold Obligations.FcmdBuildsThenSends
  intro s hf hl
  obtain ⟨hread, hframe, htxlen, -⟩ := s.build_spec hl
  have hnext : exec .fcmd s = .next { s.build with fsm := .txSend } := by
    rw [exec, execFcmd, payloadTooLarge_eq_false hl]
    exact start_idle hf rfl
  have hbuf (b : Buf) : State.buf { s.build with fsm := .txSend } b = s.build.buf b := by cases b <;> rfl
  refine ⟨_, hnext, ?_, htxlen, rfl, rfl, fun b a hn => ?_, rfl⟩
  · exact (State.memRead_congr (hbuf .txbuf) rfl _ _).trans hread
  · exact (State.readByte_congr (hbuf b) rfl a).trans (hframe b a hn)

/-- Settles O23: both operations test LEN before anything else, and the block is idle already. -/
theorem buildRejectsLongPayload : Obligations.BuildRejectsLongPayload := by
  unfold Obligations.BuildRejectsLongPayload
  intro s i hi hf hl
  have hlarge : s.payloadTooLarge = true := decide_eq_true hl
  have hexec : exec i s = s.start true (s.raise .payloadTooLarge 0) := by
    obtain rfl | rfl := hi
    · rw [exec, execFbuild, if_pos hlarge]
    · rw [exec, execFcmd, if_pos hlarge]
  rw [hexec, start_idle hf rfl, raise_of_idle hf]
  rfl

/-- A failed send ends the command with the transport's answer (42 R137). -/
theorem blockStep_txSend_fails {s : State} {e : TransportFail} (hf : s.fsm = .txSend) (hlen : s.txlen.toNat ≤ 262)
    (hfail : s.sendFails = some e) : s.blockStep = .next ((s.afterSend s.txFrame).raiseFail e) := by
  have hfits : s.fits .txbuf 0 s.txlen.toNat = true := decide_eq_true (by simpa [bufCapacity] using hlen)
  simp [State.blockStep, hf, State.inside, hfits, State.stepTxSend, hfail]

/-- Settles O24: the three answers of a send. -/
theorem txSendStep : Obligations.TxSendStep := by
  unfold Obligations.TxSendStep
  intro s t hf hlen ht
  subst ht
  exact ⟨blockStep_txSend hf hlen, blockStep_txSend_fails hf hlen, fun _ => blockStep_txSend_fails hf hlen⟩

/-- Six bytes in AWAIT_ACK are ACK_FRAME, ERR_FRAME or neither (42 R138 to R141). -/
theorem onAck_eq {s : State} {c : Params} (hc : s.cfg = c) (bs : List Byte) : s.onAck bs =
    if bs = c.ackFrame then s.doneLen 0
    else if bs = c.errFrame then if c.errTrail = 0 then s.raise .protocolError 0 else { s with fsm := .errDrain }
    else s.raise .transportError 0 := by
  subst hc
  simp only [State.onAck, ackClassify]
  split_ifs <;> rfl

theorem blockStep_awaitAck {s : State} (hf : s.fsm = .awaitAck) : s.blockStep = .next s.stepAwaitAck := by
  rw [State.blockStep, hf]

/-- Settles O25: six bytes are classified, and a failure is the transport's. -/
theorem awaitAckStep : Obligations.AwaitAckStep := by
  unfold Obligations.AwaitAckStep
  intro s hf
  refine ⟨fun bs hok => ?_, fun hfail => ?_, fun info hfail => ?_⟩ <;> rw [blockStep_awaitAck hf, State.stepAwaitAck]
  · rw [hok]
    exact congrArg _ (onAck_eq (s.afterRecv_cfg 6) bs)
  · rw [hfail]
    rfl
  · rw [hfail]
    rfl

/-- Settles O26: the answer of a drain's receive is not looked at. -/
theorem drainsKeepTheirError : Obligations.DrainsKeepTheirError := by
  unfold Obligations.DrainsKeepTheirError
  refine fun s => ⟨fun hf => ?_, fun hf => ?_, fun hf => ?_⟩ <;> rw [State.blockStep, hf] <;> rfl

/-! ### The response side: the state in which the receive is made -/

/-- Settles O27: FRECV reads no buffer, but its CAP is compared with RXCAP. -/
theorem frecvStarts : Obligations.FrecvStarts := by
  unfold Obligations.FrecvStarts
  exact fun s => ⟨rfl, start_reading s { s with capl := s.cap, fsm := .rxHdr } .rxbuf s.cap.toNat⟩

theorem fits_rxbuf_plen {s : State} (h : s.plen.toNat ≤ s.cfg.rxcap) : s.fits .rxbuf 0 s.plen.toNat = true :=
  decide_eq_true (by simpa [bufCapacity] using h)

section

variable {s : State} (hab : s.abortp = false)
include hab

theorem unlessAborted_of_not (k : Out) : s.unlessAborted k = k := by rw [State.unlessAborted, hab]; rfl

theorem blockStep_rxHdr (hf : s.fsm = .rxHdr) : s.blockStep = .next s.stepRxHdr := by
  rw [State.blockStep, hf]
  exact unlessAborted_of_not hab _

theorem blockStep_rxTc (hf : s.fsm = .rxTc) : s.blockStep = .next s.stepRxTc := by
  rw [State.blockStep, hf]
  exact unlessAborted_of_not hab _

theorem blockStep_rxPayload (hf : s.fsm = .rxPayload) (hcap : s.plen.toNat ≤ s.cfg.rxcap) :
    s.blockStep = .next s.stepRxPayload := by
  rw [State.blockStep, hf, fits_rxbuf_plen hcap]
  exact unlessAborted_of_not hab _

theorem blockStep_rxTrailer (hf : s.fsm = .rxTrailer) (hcap : s.plen.toNat ≤ s.cfg.rxcap) :
    s.blockStep = .next s.stepRxTrailer := by
  rw [State.blockStep, hf, fits_rxbuf_plen hcap]
  exact unlessAborted_of_not hab _

end

theorem stepRxHdr_ok {s : State} {h : List Byte} (hr : s.recvReply 5 = .ok h) :
    s.stepRxHdr = (s.afterRecv 5).onHeader h := by rw [State.stepRxHdr, hr]

theorem stepRxTc_ok {s : State} {bs : List Byte} (hr : s.recvReply 2 = .ok bs) :
    s.stepRxTc = (s.afterRecv 2).onTc bs := by rw [State.stepRxTc, hr]

theorem stepRxPayload_ok {s : State} {bs : List Byte} (hr : s.recvReply s.plen.toNat = .ok bs) :
    s.stepRxPayload = (s.afterRecv s.plen.toNat).onPayload bs := by rw [State.stepRxPayload, hr]

theorem stepRxTrailer_ok {s : State} {bs : List Byte} (hr : s.recvReply 2 = .ok bs) :
    s.stepRxTrailer = (s.afterRecv 2).onTrailer bs := by rw [State.stepRxTrailer, hr]

/-! ### The response side: what the received bytes do -/

theorem ne_preamble_iff {h0 h1 h2 : Byte} : [h0, h1, h2] ≠ preamble ↔ h0 ≠ 0x00 ∨ h1 ≠ 0x00 ∨ h2 ≠ 0xFF := by
  simp only [preamble, ne_eq, List.cons.injEq, and_true]
  tauto

/-- The order of the header's tests (42 R146, R148 to R151; 30 R82). -/
theorem onHeader_eq (s : State) (h0 h1 h2 len lc : Byte) : s.onHeader [h0, h1, h2, len, lc] =
    if h0 ≠ 0x00 ∨ h1 ≠ 0x00 ∨ h2 ≠ 0xFF then s.raise .framingError 0
    else if len = 0x01 ∧ lc = 0xFF then { s with fsm := .appDrain }
    else if len = 0xFF ∧ lc = 0xFF then s.raise .unsupportedFrame 0
    else if (len.toNat + lc.toNat) % 256 ≠ 0 then s.raise .framingError 0
    else if len.toNat < 2 then s.raise .framingError 0
    else if s.capl.toNat < len.toNat - 2 then s.raise .bufferTooSmall 0
    else { s with plen := len - 2, fsm := .rxTc } := by
  simp only [State.onHeader, classifyHeader, ne_preamble_iff]
  split_ifs with hpre happ hext hsum hshort hroom
  · rfl
  · rfl
  · rfl
  · rfl
  · rfl
  · exact if_pos hroom
  · exact if_neg hroom

/-- Settles O28: the header is received, and tested in its order. -/
theorem rxHdrStep : Obligations.RxHdrStep := by
  unfold Obligations.RxHdrStep
  intro s r h0 h1 h2 h3 h4 hf hab hok hr
  subst hr
  rw [blockStep_rxHdr hab hf, stepRxHdr_ok hok, onHeader_eq, ← s.afterRecv_capl 5]
  rfl

/-- The code that follows LASTCMD, the `+ 1` wrapping (42 R153). -/
theorem eq_add_one_iff {a b : Byte} : a = b + 1 ↔ a.toNat = (b.toNat + 1) % 256 := by
  rw [← BitVec.toNat_inj, BitVec.toNat_add]
  rfl

/-- TFI and command code are latched before they are tested (42 R152, R153). -/
theorem onTc_eq (s : State) (t cc : Byte) : s.onTc [t, cc] =
    if t ≠ tfiC2H ∨ cc ≠ s.lastcmd + 1 then ({ s with rtfi := t, rcc := cc } : State).raise .unexpectedResponse 0
    else if s.plen = 0 then { s with rtfi := t, rcc := cc, fsm := .rxTrailer }
    else { s with rtfi := t, rcc := cc, fsm := .rxPayload } := rfl

/-- Settles O29: two bytes are received, latched and tested. -/
theorem rxTcStep : Obligations.RxTcStep := by
  unfold Obligations.RxTcStep
  intro s r t cc hf hab hok hr
  subst hr
  rw [blockStep_rxTc hab hf, stepRxTc_ok hok, onTc_eq, ← s.afterRecv_lastcmd 2, ← s.afterRecv_plen 2]
  simp only [ne_eq, eq_add_one_iff]
  rfl

/-- What the storing of the payload leaves (42 R154). -/
theorem onPayload_spec (s : State) {bs : List Byte} {n : Nat} (hn : bs.length = n) :
    (s.onPayload bs).memRead .rxbuf 0 n = bs ∧
    (∀ b a, ¬ (b = .rxbuf ∧ a < n) → (s.onPayload bs).readByte b a = s.readByte b a) ∧
    { s.onPayload bs with rxbuf := s.rxbuf, fsm := s.fsm } = s := by
  subst hn
  have hbuf (b : Buf) : (s.onPayload bs).buf b = (s.memWrite .rxbuf 0 bs).buf b := by cases b <;> rfl
  refine ⟨?_, fun b a hout => ?_, rfl⟩
  · rw [State.memRead_congr (hbuf _) rfl, State.memRead_memWrite]
  · rw [State.readByte_congr (hbuf _) rfl, State.readByte_memWrite_out]
    simpa using hout

/-- Settles O30: PLEN bytes are received and stored from index 0 on. -/
theorem rxPayloadStep : Obligations.RxPayloadStep := by
  unfold Obligations.RxPayloadStep
  intro s bs hf hab hcap hok
  obtain ⟨hread, hframe, hregs⟩ := onPayload_spec (s.afterRecv s.plen.toNat) (State.recvReply_length hok)
  rw [State.afterRecv_rxbuf, State.afterRecv_fsm] at hregs
  refine ⟨_, blockStep_rxPayload hab hf hcap, ?_⟩
  rw [stepRxPayload_ok hok]
  exact ⟨rfl, hread, fun b a hout => (hframe b a hout).trans (s.readByte_afterRecv _ b a), hregs⟩

/-- The order of the trailer's tests, and that only its success advances LASTCMD (42 R155 to R157). -/
theorem onTrailer_eq (s : State) (d p : Byte) : s.onTrailer [d, p] =
    if d ≠ dcs s.rtfi s.rcc s.rxPayload then s.raise .checksumMismatch 0
    else if p ≠ postamble then s.raise .framingError 0
    else { s.doneLen (s.plen.setWidth 16) with lastcmd := s.lastcmd + 1 } := rfl

/-- Settles O31: two bytes are received, and tested in their order. -/
theorem rxTrailerStep : Obligations.RxTrailerStep := by
  unfold Obligations.RxTrailerStep
  intro s r d p hf hab hcap hok hr
  subst hr
  rw [blockStep_rxTrailer hab hf hcap, stepRxTrailer_ok hok, onTrailer_eq, ← s.memRead_afterRecv 2,
    ← s.afterRecv_plen 2, ← s.afterRecv_rtfi 2, ← s.afterRecv_rcc 2, ← s.afterRecv_lastcmd 2]
  rfl

/-! ### The response side: a failed receive -/

/-- The end by the transport's failure writes the status pair and FSM only (42 R158): where `u` is `r` but for RXBUF and
its draw, so is it after the end. -/
theorem raiseFail_frame {u r : State} (e : TransportFail) (h : { u with rxbuf := r.rxbuf, draws := r.draws } = r) :
    { u.raiseFail e with rxbuf := r.rxbuf, draws := r.draws, status := r.status, errinfo := r.errinfo, fsm := r.fsm } =
      r := by
  have hend := congrArg (fun x : State => { x with status := r.status, errinfo := r.errinfo, fsm := r.fsm }) h
  cases e <;> exact hend

theorem raiseFail_readByte (s : State) (e : TransportFail) (b : Buf) (a : Nat) :
    (s.raiseFail e).readByte b a = s.readByte b a :=
  State.readByte_congr (by cases b <;> simp [State.buf]) (s.raiseFail_epoch e) a

/-- A payload receive that failed leaves every byte but those of `RXBUF[0..PLEN)` (42 R163). -/
theorem loseRxPayload_readByte {s : State} {b : Buf} {a : Nat} (h : ¬ (b = .rxbuf ∧ a < s.plen.toNat)) :
    s.loseRxPayload.readByte b a = s.readByte b a := by
  have hbuf : s.loseRxPayload.buf b = (s.memWrite .rxbuf 0 (freeRun s.draws 0 s.plen.toNat)).buf b := by
    cases b <;> rfl
  rw [State.readByte_congr hbuf rfl, State.readByte_memWrite_out]
  simpa using h

/-- The state in which the operation ends after a failed receive: where the payload was to be received,
`RXBUF[0..PLEN)` is lost (42 R163). -/
def State.afterFailedRecv (s : State) (n : Nat) : State :=
  if s.fsm = .rxPayload then (s.afterRecv n).loseRxPayload else s.afterRecv n

theorem afterFailedRecv_readByte {s : State} {n : Nat} {b : Buf} {a : Nat}
    (h : ¬ (s.fsm = .rxPayload ∧ b = .rxbuf ∧ a < s.plen.toNat)) :
    (s.afterFailedRecv n).readByte b a = s.readByte b a := by
  unfold State.afterFailedRecv
  split
  · rename_i hf
    rw [loseRxPayload_readByte (by simpa [hf] using h), State.readByte_afterRecv]
  · exact s.readByte_afterRecv n b a

theorem loseRxPayload_frame (s : State) : { s.loseRxPayload with rxbuf := s.rxbuf, draws := s.draws } = s := rfl

/-- But for RXBUF and the draw of its lost bytes, the registers are those after the receive. -/
theorem afterFailedRecv_frame (s : State) (n : Nat) :
    { s.afterFailedRecv n with rxbuf := (s.afterRecv n).rxbuf, draws := (s.afterRecv n).draws } = s.afterRecv n := by
  unfold State.afterFailedRecv
  split
  · exact loseRxPayload_frame _
  · rfl

/-- A failed receive of FRECV ends the operation with the transport's failure (42 R158). -/
theorem blockStep_recvFails {s : State} {n : Nat} {e : TransportFail} (hab : s.abortp = false)
    (hn : s.fsm = .rxHdr ∧ n = 5 ∨ s.fsm = .rxTc ∧ n = 2 ∨
      s.fsm = .rxPayload ∧ n = s.plen.toNat ∧ s.plen.toNat ≤ s.cfg.rxcap ∨
      s.fsm = .rxTrailer ∧ n = 2 ∧ s.plen.toNat ≤ s.cfg.rxcap)
    (hfail : s.recvReply n = .error e) : s.blockStep = .next ((s.afterFailedRecv n).raiseFail e) := by
  obtain ⟨hf, rfl⟩ | ⟨hf, rfl⟩ | ⟨hf, rfl, hcap⟩ | ⟨hf, rfl, hcap⟩ := hn
  · rw [blockStep_rxHdr hab hf, State.stepRxHdr, hfail, State.afterFailedRecv, hf]
    rfl
  · rw [blockStep_rxTc hab hf, State.stepRxTc, hfail, State.afterFailedRecv, hf]
    rfl
  · rw [blockStep_rxPayload hab hf hcap, State.stepRxPayload, hfail, State.afterFailedRecv, if_pos hf]
  · rw [blockStep_rxTrailer hab hf hcap, State.stepRxTrailer, hfail, State.afterFailedRecv, hf]
    rfl

/-- Settles O32: the failure is raised in the state after the receive, which has lost the payload's bytes at most. -/
theorem failedReceiveStep : Obligations.FailedReceiveStep := by
  unfold Obligations.FailedReceiveStep
  intro s n e hab hn hfail
  refine ⟨_, blockStep_recvFails hab hn hfail, State.raiseFail_fsm _ e, ?_, ?_, fun b a hout => ?_, ?_⟩
  · rintro rfl
    exact ⟨rfl, rfl⟩
  · rintro info rfl
    exact ⟨rfl, rfl⟩
  · rw [raiseFail_readByte, afterFailedRecv_readByte hout]
  · have hend := raiseFail_frame e (afterFailedRecv_frame s n)
    rwa [s.afterRecv_rxbuf, s.afterRecv_status, s.afterRecv_errinfo, s.afterRecv_fsm] at hend

/-! ### The order of the states -/

/-- The BLOCK has a step wherever the buffer access of its state, if it makes one, lies inside the buffer. -/
theorem blockStep_defined {s : State} (htx : s.fsm = .txSend → s.txlen.toNat ≤ 262)
    (hrx : s.fsm = .rxPayload ∨ s.fsm = .rxTrailer → s.plen.toNat ≤ s.cfg.rxcap) : ∃ t, s.blockStep = .next t := by
  have hunless {t : State} : ∃ u, s.unlessAborted (.next t) = .next u := by
    cases hab : s.abortp
    · exact ⟨_, unlessAborted_of_not hab _⟩
    · exact ⟨_, if_pos hab⟩
  unfold State.blockStep
  cases hf : s.fsm with
  | txSend => exact ⟨_, if_pos (decide_eq_true (by simpa [bufCapacity] using htx hf))⟩
  | rxHdr | rxTc => exact hunless
  | rxPayload => simpa [State.inside, fits_rxbuf_plen (hrx (.inl hf))] using hunless
  | rxTrailer => simpa [State.inside, fits_rxbuf_plen (hrx (.inr hf))] using hunless
  | idle | awaitAck | errDrain | appDrain | rsWake | rsSend | rsAck | rsDrain => exact ⟨_, rfl⟩

/-- In a good state every buffer access lies inside: the built frame is at most 262 bytes, and PLEN was compared with
the caller's room (42 R132, R151). -/
theorem State.Inv.blockStep_defined {s : State} (hi : s.Inv) : ∃ t, s.blockStep = .next t := by
  refine Machine.blockStep_defined (fun hf => ?_) fun hf => ?_
  · obtain ⟨hlen, htxlen, -⟩ := hi.tx_frame hf
    have hmax := s.cfg.maxPayload_le
    omega
  · have hroom := hi.rx_room (by obtain h | h := hf <;> rw [h] <;> rfl)
    obtain ⟨hfits, -⟩ := hi.rx_fits (.inr hf)
    omega

/-- A receive of a response is farther from its end than the re-synchronisation that an abort begins (43 R178). -/
theorem Fsm.rank_rsWake_lt {f : Fsm} (h : f.abortable = true) : Fsm.rsWake.rank < f.rank := by
  revert h
  cases f <;> decide

/-- Every row of R160 and R178 leads to a state of a lower rank. -/
theorem BlockEffect.rank_lt {s t : State} (e : BlockEffect s t) (hs : s.fsm ≠ .idle) : t.fsm.rank < s.fsm.rank := by
  cases e with
  | stay h => exact absurd h hs
  | abort h => exact Fsm.rank_rsWake_lt h
  | _ => simp [*, Fsm.rank]

/-- Settles O49: the step exists, and whatever it does lowers the rank. -/
theorem blockStepMakesProgress : Obligations.BlockStepMakesProgress := by
  unfold Obligations.BlockStepMakesProgress
  intro s hi hs
  obtain ⟨t, ht⟩ := hi.blockStep_defined
  exact ⟨t, ht, (blockStep_effect ht).rank_lt hs⟩

/-! ### The step of the machine that is the BLOCK's -/

/-- Settles O3: with an empty agenda the step is the BLOCK's, and a sent format's `exec` is that step where the BLOCK is
about to send it; bytes on the wire are received as they are. -/
theorem blockStepRunsTheSentFormat : Obligations.BlockStepRunsTheSentFormat := by
  unfold Obligations.BlockStepRunsTheSentFormat
  refine ⟨fun s hag => ⟨step_block hag, fun hf => ?_, fun cc p hframe => ?_⟩,
    fun s rest => ⟨fun hag => ?_, fun bs hag => ?_, fun bs hag _ _ => ?_⟩⟩
  · rw [step_block hag, exec, execWake, if_pos hf]
  · rw [step_block hag, exec_nfH2C_of_frameToSend hframe]
  · exact step_event hag
  · exact step_event hag
  · rw [step_event hag, runEvent_wire]
    rfl

/-! ### Runs that reach a goal -/

/-- Within `n` steps from `s` the machine is in a state with `P`. -/
def ReachesWithin (n : Nat) (s : State) (P : State → Prop) : Prop :=
  ∃ k t, k ≤ n ∧ Host.Core.run core k s = .next t ∧ P t

/-- A run goes on from where a shorter one has led. -/
theorem run_add (M : Host.Core) (n : Nat) {t : M.State} : ∀ {m : Nat} {s : M.State},
    M.run m s = .next t → M.run (m + n) s = M.run n t
  | 0, _, h => by
    cases h
    rw [Nat.zero_add]
  | m + 1, s, h => by
    rw [Nat.succ_add]
    simp only [Host.Core.run] at h ⊢
    split at h
    · exact run_add M n h
    · cases h
    · cases h

theorem ReachesWithin.step {s t : State} {P : State → Prop} (h : Machine.step s = .next t) (ht : P t) :
    ReachesWithin 1 s P := ⟨1, t, Nat.le_refl 1, run_next core h 0, ht⟩

theorem ReachesWithin.trans {m n : Nat} {s : State} {P Q : State → Prop} (h : ReachesWithin m s P)
    (hPQ : ∀ u, P u → ReachesWithin n u Q) : ReachesWithin (m + n) s Q := by
  obtain ⟨j, u, hj, hrun, hu⟩ := h
  obtain ⟨k, t, hk, hrun', ht⟩ := hPQ u hu
  exact ⟨j + k, t, by omega, (run_add core k hrun).trans hrun', ht⟩

/-! ### A whole exchange: what is offered, and how far the FRECV has come -/

/-- The first five bytes of a frame with the payload `p` (30 R71). -/
def frameHeader (p : List Byte) : List Byte := [0x00, 0x00, 0xFF, lenByte p, lcs (lenByte p)]

/-- A frame that is right but perhaps for its direction byte, its command code or its data checksum. -/
def frameWith (tfi cc : Byte) (p : List Byte) (d : Byte) : List Byte :=
  frameHeader p ++ tfi :: cc :: (p ++ [d, postamble])

theorem normalFrame_eq_frameWith (tfi cc : Byte) (p : List Byte) :
    normalFrame tfi cc p = frameWith tfi cc p (dcs tfi cc p) := normalFrame_eq tfi cc p

/-- The next `k` answers of the TRANSPORT are successes that bring no bytes. -/
def Succeed : Nat → List Answer → Prop
  | 0, _ => True
  | k + 1, as => ∃ lost rest, as = ⟨[], .ok, lost⟩ :: rest ∧ Succeed k rest

/-- An FRECV with room for the payload `p` is about to be started in `s`, the stream begins with a frame of that
payload, and the four receives are going to succeed. -/
structure Offered (s : State) (tfi cc : Byte) (p : List Byte) (d : Byte) (more : List Byte) : Prop where
  idle : s.fsm = .idle
  no_abort : s.abortp = false
  starts : s.agenda = [.start 0x22]
  length_le : p.length ≤ 253
  fits : p.length ≤ s.cap.toNat
  room : s.cap.toNat ≤ s.cfg.rxcap
  stream : s.pending = frameWith tfi cc p d ++ more
  answers : Succeed 4 s.answers

/-- At `u` the FRECV that was started in `s` is in the FSM state `f`, receives undisturbed a response with `n` payload
bytes, for which there is room, and `k` receives from `stream` are going to succeed. -/
structure Receiving (s : State) (n : Nat) (f : Fsm) (k : Nat) (stream : List Byte) (u : State) : Prop where
  fsm : u.fsm = f
  no_abort : u.abortp = false
  undisturbed : u.agenda = []
  answers : Succeed k u.answers
  stream : u.pending = stream
  fits : n ≤ u.capl.toNat
  room : u.capl.toNat ≤ u.cfg.rxcap
  plen : f ≠ .rxHdr → u.plen.toNat = n
  lastcmd : u.lastcmd = s.lastcmd
  rlen : u.rlen = s.rlen

/-- And in RX_TRAILER the expected code and the payload `p` have been received. -/
structure AtTrailer (s : State) (p stream : List Byte) (u : State) : Prop
    extends Receiving s p.length .rxTrailer 1 stream u where
  rtfi : u.rtfi = tfiC2H
  rcc : u.rcc = s.lastcmd + 1
  payload : u.rxPayload = p

/-- At `u` the FRECV that was started in `s` has ended with the error `code` of its own. -/
structure EndedWith (s : State) (code : Byte) (u : State) : Prop where
  idle : u.fsm = .idle
  status : u.status = code
  errinfo : u.errinfo = 0
  lastcmd : u.lastcmd = s.lastcmd
  rlen : u.rlen = s.rlen
  agenda : u.agenda = []

/-- At `u` the FRECV that was started in `s` has returned the payload `p` and left `more` in the stream. -/
structure Returned (s : State) (p more : List Byte) (u : State) : Prop where
  idle : u.fsm = .idle
  status : u.status = 0x00
  errinfo : u.errinfo = 0
  rlen : u.rlen.toNat = p.length
  payload : u.memRead .rxbuf 0 p.length = p
  lastcmd : u.lastcmd = s.lastcmd + 1
  stream : u.pending = more

/-! ### A whole exchange: its steps -/

theorem step_frecv {s : State} (hf : s.fsm = .idle) (hag : s.agenda = [.start 0x22])
    (hroom : s.cap.toNat ≤ s.cfg.rxcap) : step s = .next { s with agenda := [], capl := s.cap, fsm := .rxHdr } := by
  obtain ⟨-, -, -, haccept⟩ := frecvStarts { s with agenda := [] }
  exact (step_event hag).trans (haccept hf hroom)

/-- The first step of the FRECV makes no call (42 R144). -/
theorem Offered.reaches_rxHdr {s : State} {tfi cc d : Byte} {p more : List Byte} (h : Offered s tfi cc p d more) :
    ReachesWithin 1 s
      (Receiving s p.length .rxHdr 4 (frameHeader p ++ tfi :: cc :: (p ++ d :: postamble :: more))) := by
  refine .step (step_frecv h.idle h.starts h.room) ?_
  exact { fsm := rfl, no_abort := h.no_abort, undisturbed := rfl, answers := h.answers,
          stream := h.stream.trans (by simp [frameWith]), fits := h.fits, room := h.room,
          plen := fun hne => absurd rfl hne, lastcmd := rfl, rlen := rfl }

section

variable {s u : State} {n k : Nat} {bs stream : List Byte}

theorem Receiving.plen_le {f : Fsm} (h : Receiving s n f k stream u) (hf : f ≠ .rxHdr) :
    u.plen.toNat ≤ u.cfg.rxcap := h.plen hf ▸ h.fits.trans h.room

/-- The next receive gives the bytes it asks for and uses up one answer. -/
theorem Receiving.recv {f : Fsm} {m : Nat} (h : Receiving s n f (k + 1) (bs ++ stream) u) (hm : bs.length = m) :
    ∃ rest, Succeed k rest ∧ u.recvReply m = .ok bs ∧ u.afterRecv m = u.afterTaking rest m stream := by
  obtain ⟨lost, rest, hans, hmore⟩ := h.answers
  exact ⟨rest, hmore, State.recvReply_next hans h.stream hm, State.afterRecv_next hans h.stream hm⟩

theorem Receiving.step_onHeader (h : Receiving s n .rxHdr (k + 1) (bs ++ stream) u) (hn : bs.length = 5) :
    ∃ rest, Succeed k rest ∧ step u = .next ((u.afterTaking rest 5 stream).onHeader bs) := by
  obtain ⟨rest, hmore, hok, hafter⟩ := h.recv hn
  refine ⟨rest, hmore, ?_⟩
  rw [step_block h.undisturbed, blockStep_rxHdr h.no_abort h.fsm, stepRxHdr_ok hok, hafter]

theorem Receiving.step_onTc (h : Receiving s n .rxTc (k + 1) (bs ++ stream) u) (hn : bs.length = 2) :
    ∃ rest, Succeed k rest ∧ step u = .next ((u.afterTaking rest 2 stream).onTc bs) := by
  obtain ⟨rest, hmore, hok, hafter⟩ := h.recv hn
  refine ⟨rest, hmore, ?_⟩
  rw [step_block h.undisturbed, blockStep_rxTc h.no_abort h.fsm, stepRxTc_ok hok, hafter]

theorem Receiving.step_onPayload (h : Receiving s n .rxPayload (k + 1) (bs ++ stream) u) (hn : bs.length = n) :
    ∃ rest, Succeed k rest ∧ step u = .next ((u.afterTaking rest u.plen.toNat stream).onPayload bs) := by
  obtain ⟨rest, hmore, hok, hafter⟩ := h.recv (hn.trans (h.plen (by decide)).symm)
  refine ⟨rest, hmore, ?_⟩
  rw [step_block h.undisturbed, blockStep_rxPayload h.no_abort h.fsm (h.plen_le (by decide)), stepRxPayload_ok hok,
    hafter]

theorem Receiving.step_onTrailer (h : Receiving s n .rxTrailer (k + 1) (bs ++ stream) u) (hn : bs.length = 2) :
    ∃ rest, step u = .next ((u.afterTaking rest 2 stream).onTrailer bs) := by
  obtain ⟨rest, -, hok, hafter⟩ := h.recv hn
  refine ⟨rest, ?_⟩
  rw [step_block h.undisturbed, blockStep_rxTrailer h.no_abort h.fsm (h.plen_le (by decide)), stepRxTrailer_ok hok,
    hafter]

/-- The header of a payload that fits is accepted (42 R145, R151). -/
theorem Receiving.accepts_header {p : List Byte}
    (h : Receiving s p.length .rxHdr (k + 1) (frameHeader p ++ stream) u) (hp : p.length ≤ 253) :
    ReachesWithin 1 u (Receiving s p.length .rxTc k stream) := by
  obtain ⟨rest, hmore, hstep⟩ := h.step_onHeader rfl
  have hfits : ¬ (u.afterTaking rest 5 stream).capl.toNat < p.length := Nat.not_lt.mpr h.fits
  rw [frameHeader, onHeader_normal _ hp, if_neg hfits] at hstep
  exact .step hstep { h with
    fsm := rfl, answers := hmore, stream := rfl
    plen := fun _ => (BitVec.toNat_ofNat ..).trans (Nat.mod_eq_of_lt (by omega)) }

/-- The expected code leads to the payload's receive if there is a payload, and else to the trailer's (42 R152,
R153). -/
theorem onTc_expected (s : State) : s.onTc [tfiC2H, s.lastcmd + 1] = { s with
    rtfi := tfiC2H, rcc := s.lastcmd + 1, fsm := if s.plen = 0 then .rxTrailer else .rxPayload } := by
  rw [onTc_eq, if_neg (by simp)]
  split <;> rfl

/-- A wrong direction byte or command code ends the FRECV (42 R153). -/
theorem Receiving.rejects_code {tfi cc : Byte} (h : Receiving s n .rxTc (k + 1) (tfi :: cc :: stream) u)
    (hne : tfi ≠ tfiC2H ∨ cc ≠ s.lastcmd + 1) : ReachesWithin 1 u (EndedWith s 0x09) := by
  obtain ⟨rest, -, hstep⟩ := h.step_onTc (bs := [tfi, cc]) rfl
  rw [← h.lastcmd] at hne
  exact .step (hstep.trans (congrArg _ (if_pos hne))) ⟨rfl, rfl, rfl, h.lastcmd, h.rlen, h.undisturbed⟩

/-- The expected code is latched, and the payload is received next if there is one (42 R152, R153). -/
theorem Receiving.accepts_code (h : Receiving s n .rxTc (k + 1) (tfiC2H :: (s.lastcmd + 1) :: stream) u) :
    ReachesWithin 1 u fun v => Receiving s n (if n = 0 then .rxTrailer else .rxPayload) k stream v ∧
      v.rtfi = tfiC2H ∧ v.rcc = s.lastcmd + 1 := by
  obtain ⟨rest, hmore, hstep⟩ := h.step_onTc (bs := [tfiC2H, s.lastcmd + 1]) rfl
  have hcode : (u.afterTaking rest 2 stream).lastcmd = s.lastcmd := h.lastcmd
  have hplen : u.plen.toNat = n := h.plen (by decide)
  have hzero : (u.afterTaking rest 2 stream).plen = 0 ↔ n = 0 := by
    rw [← hplen, ← BitVec.toNat_inj]
    rfl
  rw [← hcode, onTc_expected] at hstep
  exact .step hstep ⟨{ h with
    fsm := if_congr hzero rfl rfl, answers := hmore, stream := rfl, plen := fun _ => hplen },
    rfl, congrArg (· + 1) hcode⟩

/-- The payload is stored (42 R154). -/
theorem Receiving.stores_payload {p : List Byte}
    (h : Receiving s p.length .rxPayload 2 (p ++ stream) u) (ht : u.rtfi = tfiC2H) (hc : u.rcc = s.lastcmd + 1) :
    ReachesWithin 1 u (AtTrailer s p stream) := by
  obtain ⟨rest, hmore, hstep⟩ := h.step_onPayload rfl
  have hplen : u.plen.toNat = p.length := h.plen (by decide)
  obtain ⟨hread, -⟩ := onPayload_spec (u.afterTaking rest u.plen.toNat stream) hplen.symm
  exact .step hstep { h with
    fsm := rfl, answers := hmore, stream := rfl, plen := fun _ => hplen, rtfi := ht, rcc := hc, payload := hread }

/-- With the expected code RX_TRAILER is reached, by way of RX_PAYLOAD if there is a payload. -/
theorem Receiving.reaches_rxTrailer {p : List Byte}
    (h : Receiving s p.length .rxTc 3 (tfiC2H :: (s.lastcmd + 1) :: (p ++ stream)) u) :
    ReachesWithin 2 u (AtTrailer s p stream) := by
  refine h.accepts_code.trans (n := 1) ?_
  rintro v ⟨hv, ht, hc⟩
  cases p with
  | nil =>
    obtain ⟨lost, rest, hans, -⟩ := hv.answers
    refine ⟨0, v, by omega, rfl, { hv with
      answers := ⟨lost, rest, hans, trivial⟩, rtfi := ht, rcc := hc, payload := ?_ }⟩
    rw [State.rxPayload, hv.plen (by decide)]
    rfl
  | cons b p => exact hv.stores_payload ht hc

/-- The trailer's tests, with the code and the payload that were received (42 R155 to R157). -/
theorem AtTrailer.step_onTrailer {p : List Byte} {d post : Byte} (h : AtTrailer s p (d :: post :: stream) u) :
    ∃ rest, step u = .next
      (if d ≠ dcs tfiC2H (s.lastcmd + 1) p then (u.afterTaking rest 2 stream).raise .checksumMismatch 0
       else if post ≠ postamble then (u.afterTaking rest 2 stream).raise .framingError 0
       else { (u.afterTaking rest 2 stream).doneLen (u.plen.setWidth 16) with lastcmd := u.lastcmd + 1 }) := by
  obtain ⟨rest, hstep⟩ := h.toReceiving.step_onTrailer (bs := [d, post]) rfl
  have hpay : (u.afterTaking rest 2 stream).rxPayload = p := by
    refine (State.memRead_congr (t := u) ?_ ?_ _ _).trans h.payload <;> rfl
  refine ⟨rest, hstep.trans ?_⟩
  rw [onTrailer_eq, hpay, ← h.rcc, ← h.rtfi]
  rfl

/-- A wrong data checksum ends the FRECV (42 R155). -/
theorem AtTrailer.rejects_dcs {p : List Byte} {d post : Byte} (h : AtTrailer s p (d :: post :: stream) u)
    (hne : d ≠ dcs tfiC2H (s.lastcmd + 1) p) : ReachesWithin 1 u (EndedWith s 0x04) := by
  obtain ⟨rest, hstep⟩ := h.step_onTrailer
  rw [if_pos hne] at hstep
  exact .step hstep ⟨rfl, rfl, rfl, h.lastcmd, h.rlen, h.undisturbed⟩

/-- A right trailer ends the FRECV with success: the payload is returned and LASTCMD advances (42 R157). -/
theorem AtTrailer.accepts {p : List Byte}
    (h : AtTrailer s p (dcs tfiC2H (s.lastcmd + 1) p :: postamble :: stream) u) :
    ReachesWithin 1 u (Returned s p stream) := by
  obtain ⟨rest, hstep⟩ := h.step_onTrailer
  have hplen : u.plen.toNat = p.length := h.plen (by decide)
  have hread : u.memRead .rxbuf 0 p.length = p := by rw [← hplen]; exact h.payload
  rw [if_neg (not_not.mpr rfl), if_neg (not_not.mpr rfl)] at hstep
  exact .step hstep {
    idle := rfl, status := rfl, errinfo := rfl
    rlen := (BitVec.toNat_setWidth_of_le (by decide)).trans hplen
    payload := by refine (State.memRead_congr (t := u) ?_ ?_ _ _).trans hread <;> rfl
    lastcmd := congrArg (· + 1) h.lastcmd
    stream := rfl }

end

/-! ### A whole exchange: its two ends -/

section

variable {s : State} {tfi cc d : Byte} {p more : List Byte}

theorem Offered.reaches_rxTc (h : Offered s tfi cc p d more) :
    ReachesWithin 2 s (Receiving s p.length .rxTc 3 (tfi :: cc :: (p ++ d :: postamble :: more))) :=
  h.reaches_rxHdr.trans fun _ hu => hu.accepts_header h.length_le

theorem Offered.reaches_rxTrailer (h : Offered s tfiC2H (s.lastcmd + 1) p d more) :
    ReachesWithin 4 s (AtTrailer s p (d :: postamble :: more)) :=
  h.reaches_rxTc.trans fun _ hu => hu.reaches_rxTrailer

/-- A right response is received and its payload returned (42 R162). -/
theorem Offered.returned (h : Offered s tfiC2H (s.lastcmd + 1) p (dcs tfiC2H (s.lastcmd + 1) p) more) :
    ReachesWithin 5 s (Returned s p more) :=
  h.reaches_rxTrailer.trans fun _ hu => hu.accepts

/-- A wrong direction byte or command code is detected (42 R162). -/
theorem Offered.ended_by_code (h : Offered s tfi cc p d more) (hne : tfi ≠ tfiC2H ∨ cc ≠ s.lastcmd + 1) :
    ReachesWithin 3 s (EndedWith s 0x09) :=
  h.reaches_rxTc.trans fun _ hu => hu.rejects_code hne

/-- A data checksum that is not the payload's is detected (42 R162). -/
theorem Offered.ended_by_dcs (h : Offered s tfiC2H (s.lastcmd + 1) p d more)
    (hne : d ≠ dcs tfiC2H (s.lastcmd + 1) p) : ReachesWithin 5 s (EndedWith s 0x04) :=
  h.reaches_rxTrailer.trans fun _ hu => hu.rejects_dcs hne

end

/-- Settles O55: the response is an offered frame with the expected code and its own checksum. -/
theorem frameRoundTrip : Obligations.FrameRoundTrip := by
  unfold Obligations.FrameRoundTrip
  intro s p more l0 l1 l2 l3 rest hf hab hag hlen hcap hroom hstream hans
  have hoffer : Offered s tfiC2H (s.lastcmd + 1) p (dcs tfiC2H (s.lastcmd + 1) p) more :=
    { idle := hf, no_abort := hab, starts := hag, length_le := hlen, fits := hcap, room := hroom
      stream := by rw [hstream, encode, normalFrame_eq_frameWith]
      answers := ⟨_, _, hans, _, _, rfl, _, _, rfl, _, _, rfl, trivial⟩ }
  obtain ⟨n, t, hn, hrun, ht⟩ := hoffer.returned
  exact ⟨n, t, hn, hrun, ht.idle, ht.status, ht.errinfo, ht.rlen, ht.payload, ht.lastcmd, ht.stream⟩

/-- A right frame with one byte changed, from the direction byte to the data checksum: either the code is another one,
or the checksum is not the payload's (42 R162). -/
theorem normalFrame_set {tfi cc v : Byte} {p : List Byte} {k : Nat} (h5 : 5 ≤ k) (hk : k < p.length + 8)
    (hv : (normalFrame tfi cc p)[k]? ≠ some v) :
    (k < 7 ∧ ∃ t c, (t ≠ tfi ∨ c ≠ cc) ∧ (normalFrame tfi cc p).set k v = frameWith t c p (dcs tfi cc p)) ∨
    (7 ≤ k ∧ ∃ q d, q.length = p.length ∧ d ≠ dcs tfi cc q ∧
      (normalFrame tfi cc p).set k v = frameWith tfi cc q d) := by
  rw [normalFrame_eq] at hv ⊢
  obtain rfl | rfl | h7 : k = 5 ∨ k = 6 ∨ 7 ≤ k := by omega
  · exact .inl ⟨by decide, v, cc, .inl fun e => hv (by rw [e]; rfl), rfl⟩
  · exact .inl ⟨by decide, tfi, v, .inr fun e => hv (by rw [e]; rfl), rfl⟩
  · refine .inr ⟨h7, ?_⟩
    obtain ⟨j, rfl⟩ := Nat.exists_eq_add_of_le' h7
    have hlen (q : List Byte) (hq : q.length = p.length) : lenByte q = lenByte p := by rw [lenByte, lenByte, hq]
    simp only [List.getElem?_cons_succ, List.set_cons_succ] at hv ⊢
    obtain hj | rfl : j < p.length ∨ j = p.length := by omega
    · have hw : p[j]? = some p[j] := List.getElem?_eq_getElem hj
      rw [List.getElem?_append_left hj, hw] at hv
      refine ⟨p.set j v, dcs tfi cc p, List.length_set, (dcs_set_ne hw fun e => hv (by rw [e])).symm, ?_⟩
      rw [List.set_append_left _ _ hj, frameWith, frameHeader, hlen _ List.length_set]
      rfl
    · refine ⟨p, v, rfl, fun e => hv (by simp [e]), ?_⟩
      rw [List.set_append_right _ _ (Nat.le_refl _), Nat.sub_self]
      rfl

/-- Settles O56: the corrupted response is an offered frame with another code, or with another checksum than its
payload's. -/
theorem corruptionIsDetected : Obligations.CorruptionIsDetected := by
  unfold Obligations.CorruptionIsDetected
  intro s p more k v l0 l1 l2 l3 rest hf hab hag hlen hcap hroom h5 hk hv hstream hans
  have hsucceed : Succeed 4 s.answers := ⟨_, _, hans, _, _, rfl, _, _, rfl, _, _, rfl, trivial⟩
  obtain ⟨h7, t, c, hne, hset⟩ | ⟨h7, q, d, hq, hne, hset⟩ := normalFrame_set h5 hk hv
  · have hoffer : Offered s t c p (dcs tfiC2H (s.lastcmd + 1) p) more :=
      { idle := hf, no_abort := hab, starts := hag, length_le := hlen, fits := hcap, room := hroom
        stream := by rw [hstream, encode, hset]
        answers := hsucceed }
    obtain ⟨n, t, hn, hrun, ht⟩ := hoffer.ended_by_code hne
    exact ⟨n, t, by omega, hrun, ht.idle, ht.errinfo, fun _ => ht.status, fun h => by omega, ht.lastcmd, ht.rlen,
      ht.agenda⟩
  · have hoffer : Offered s tfiC2H (s.lastcmd + 1) q d more :=
      { idle := hf, no_abort := hab, starts := hag, length_le := hq.trans_le hlen, fits := hq.trans_le hcap
        room := hroom
        stream := by rw [hstream, encode, hset]
        answers := hsucceed }
    obtain ⟨n, t, hn, hrun, ht⟩ := hoffer.ended_by_dcs hne
    exact ⟨n, t, hn, hrun, ht.idle, ht.errinfo, fun h => by omega, fun _ => ht.status, ht.lastcmd, ht.rlen, ht.agenda⟩

end Sys2Proof.Machine

/-! PROOF. The abort and the re-synchronisation of 43_abort_resync.md: who sets ABORTP and when it is taken (R172,
R173), the steps of RS_WAKE, RS_SEND and RS_ACK (R174 to R176), and the end that a pending abort leads to (R178). -/

namespace Sys2Proof.Machine

/-! ### The latch -/

/-- The four states in which a receive is pending (43 R171). -/
theorem Fsm.abortable_iff {f : Fsm} :
    f.abortable = true ↔ f = .rxHdr ∨ f = .rxTc ∨ f = .rxPayload ∨ f = .rxTrailer := by
  cases f <;> simp [Fsm.abortable]

theorem cancel_of_abortable {s : State} (h : s.fsm.abortable = true) : s.cancel = { s with abortp := true } := if_pos h

theorem cancel_of_not_abortable {s : State} (h : ¬ s.fsm.abortable = true) : s.cancel = s := if_neg h

/-- Settles O33: the event is the latch's setting in the abortable states, and nothing in the others. -/
theorem abortEventIsLatchedOrDropped : Obligations.AbortEventIsLatchedOrDropped := by
  unfold Obligations.AbortEventIsLatchedOrDropped
  intro s rest hag
  rw [step_event hag, State.runEvent]
  refine ⟨fun hf => ?_, fun h1 h2 h3 h4 => ?_⟩
  · exact congrArg _ (cancel_of_abortable (Fsm.abortable_iff.mpr hf))
  · have hn : ¬ s.fsm.abortable = true := by simp [Fsm.abortable_iff, h1, h2, h3, h4]
    exact congrArg _ (cancel_of_not_abortable hn)

/-- The test of the latch stands before the state's receive and before its buffer access (60 R219). -/
theorem blockStep_takesAbort {s : State} (hab : s.abortp = true) (hf : s.fsm.abortable = true) :
    s.blockStep = .next s.takeAbort := by
  obtain h | h | h | h := Fsm.abortable_iff.mp hf <;> rw [State.blockStep, h] <;> exact if_pos hab

/-- Settles O34: in each abortable state the latch is tested first. -/
theorem pendingAbortIsTaken : Obligations.PendingAbortIsTaken := by
  unfold Obligations.PendingAbortIsTaken
  exact fun s hab hf => blockStep_takesAbort hab (Fsm.abortable_iff.mpr hf)

/-! ### The steps of the re-synchronisation -/

theorem blockStep_rsWake {s : State} (hf : s.fsm = .rsWake) :
    s.blockStep = .next { s.afterSend s.cfg.wakeupFrame with fsm := .rsSend } := by
  rw [State.blockStep, hf]
  rfl

theorem blockStep_rsDrain {s : State} (hf : s.fsm = .rsDrain) :
    s.blockStep = .next ((s.afterRecv s.cfg.errTrail).raise .aborted 0) := by
  rw [State.blockStep, hf]
  rfl

/-- Six bytes that are ERR_FRAME, with bytes after it to drain, go on; every other answer is the end (43 R176). -/
theorem blockStep_rsAck {s : State} (hf : s.fsm = .rsAck) : s.blockStep = .next
    (if s.recvReply 6 = .ok s.cfg.errFrame ∧ 0 < s.cfg.errTrail then { s.afterRecv 6 with fsm := .rsDrain }
     else (s.afterRecv 6).raise .aborted 0) := by
  rw [State.blockStep, hf]
  dsimp only
  rw [State.stepRsAck]
  cases hr : s.recvReply 6 with
  | ok bs => simp [ackClassify_err]
  | error e => simp

/-- The state after the probe frame has been laid down and sent, before the answer is looked at (43 R175). -/
def State.afterProbe (s : State) : State := s.layProbe.afterSend s.probeFrame

/-- What the laying and sending of the probe frame leaves in the buffers and TXLEN (43 R175). -/
theorem State.afterProbe_spec (s : State) :
    s.afterProbe.memRead .txbuf 0 (s.cfg.probePayload.length + 9) = s.probeFrame ∧
    s.afterProbe.txlen.toNat = s.cfg.probePayload.length + 9 ∧
    ∀ b a, ¬ (b = .txbuf ∧ a < s.cfg.probePayload.length + 9) → s.afterProbe.readByte b a = s.readByte b a := by
  obtain ⟨hread, hframe, htxlen, -⟩ := s.layProbe_spec
  refine ⟨(s.layProbe.memRead_afterSend ..).trans hread, ?_, fun b a h => ?_⟩
  · rw [State.afterProbe, State.afterSend_txlen, htxlen]
  · rw [State.afterProbe, State.readByte_afterSend, hframe b a h]

/-- But for TXBUF, TXLEN and what the end of the operation writes, the state is that after the send. -/
theorem State.afterProbe_frame (s : State) :
    { s.afterProbe with txbuf := s.txbuf, txlen := s.txlen, fsm := s.fsm, status := s.status, errinfo := s.errinfo } =
      s.afterSend s.probeFrame := by
  have hanswers : s.layProbe.answers = s.answers := rfl
  unfold State.afterProbe State.afterSend State.afterAnswer
  rw [hanswers]
  cases s.answers <;> rfl

/-- The probe frame is laid down and sent whatever the answer; a failure is the end (43 R175). -/
theorem blockStep_rsSend {s : State} (hf : s.fsm = .rsSend) : s.blockStep = .next
    (if s.sendFails = none then { s.afterProbe with fsm := .rsAck } else s.afterProbe.raise .aborted 0) := by
  rw [State.blockStep, hf]
  dsimp only
  rw [State.stepRsSend]
  cases s.sendFails <;> rfl

section

variable (s : State) (st : Byte) (info : Word) (f : Fsm) (b : Buf)

/-- The status pair and FSM are in no buffer. -/
theorem State.buf_setEnd : State.buf { s with status := st, errinfo := info, fsm := f } b = s.buf b := by
  cases b <;> rfl

theorem State.readByte_setEnd (a : Nat) :
    State.readByte { s with status := st, errinfo := info, fsm := f } b a = s.readByte b a :=
  State.readByte_congr (s.buf_setEnd st info f b) rfl a

theorem State.memRead_setEnd (i n : Nat) :
    State.memRead { s with status := st, errinfo := info, fsm := f } b i n = s.memRead b i n :=
  State.memRead_congr (s.buf_setEnd st info f b) rfl n i

end

/-- Settles O35: RS_SEND ends in the state after the probe, but for FSM and the status pair. -/
theorem resyncSteps : Obligations.ResyncSteps := by
  unfold Obligations.ResyncSteps
  refine fun s => ⟨blockStep_rsWake, blockStep_rsAck, fun hf => ?_⟩
  obtain ⟨hread, htxlen, hframe⟩ := s.afterProbe_spec
  have hcalls : s.afterProbe.calls = .send s.probeFrame s.tmo :: s.calls := s.layProbe.afterSend_calls _
  have hstatus : s.afterProbe.status = s.status := s.layProbe.afterSend_status _
  have herrinfo : s.afterProbe.errinfo = s.errinfo := s.layProbe.afterSend_errinfo _
  rw [blockStep_rsSend hf]
  refine ⟨_, rfl, ?_⟩
  by_cases hok : s.sendFails = none
  · rw [if_pos hok]
    exact ⟨(State.memRead_setEnd ..).trans hread, htxlen, hcalls,
      fun b a h => (State.readByte_setEnd ..).trans (hframe b a h), fun _ => ⟨rfl, hstatus, herrinfo⟩,
      fun hfail => absurd hok hfail, s.afterProbe_frame⟩
  · rw [if_neg hok]
    exact ⟨(State.memRead_setEnd ..).trans hread, htxlen, hcalls,
      fun b a h => (State.readByte_setEnd ..).trans (hframe b a h), fun h => absurd h hok, fun _ => ⟨rfl, rfl, rfl⟩,
      s.afterProbe_frame⟩

/-! ### The end of a pending abort -/

/-- At `u` the re-synchronisation that the pending abort of `s` began is in the FSM state `f`, undisturbed, and has kept
what it may not touch (43 R178). -/
structure Resyncing (s : State) (f : Fsm) (u : State) : Prop where
  fsm : u.fsm = f
  no_abort : u.abortp = false
  undisturbed : u.agenda = []
  cfg : u.cfg = s.cfg
  lastcmd : u.lastcmd = s.lastcmd
  rlen : u.rlen = s.rlen
  rxbuf : u.rxbuf = s.rxbuf

/-- And the probe frame is in TXBUF (43 R175). -/
structure Probed (s : State) (f : Fsm) (u : State) : Prop extends Resyncing s f u where
  txlen : u.txlen.toNat = s.cfg.probePayload.length + 9
  frame : u.memRead .txbuf 0 (s.cfg.probePayload.length + 9) = s.probeFrame

/-- At `u` the operation has ended with Aborted (43 R175 to R177). -/
structure EndedAborted (s u : State) : Prop extends Probed s .idle u where
  status : u.status = 0x0D
  errinfo : u.errinfo = 0

/-- Already there. -/
theorem ReachesWithin.now {n : Nat} {s : State} {P : State → Prop} (h : P s) : ReachesWithin n s P :=
  ⟨0, s, Nat.zero_le n, rfl, h⟩

section

variable {s u : State} {f g : Fsm}

theorem Resyncing.start (hag : s.agenda = []) : Resyncing s .rsWake s.takeAbort :=
  { fsm := rfl, no_abort := rfl, undisturbed := hag, cfg := rfl, lastcmd := rfl, rlen := rfl, rxbuf := rfl }

/-- A send touches nothing of the block. -/
theorem Resyncing.afterSend (h : Resyncing s f u) (bs : List Byte) : Resyncing s f (u.afterSend bs) := by
  obtain ⟨hfsm, hab, hag, hcfg, hlast, hrlen, hrx⟩ := h
  constructor <;> simpa

theorem Resyncing.setFsm (h : Resyncing s f u) (g : Fsm) : Resyncing s g { u with fsm := g } := { h with fsm := rfl }

/-- The laying of the probe frame writes TXBUF and TXLEN only. -/
theorem Resyncing.layProbe (h : Resyncing s f u) : Resyncing s f u.layProbe := { h with }

theorem Resyncing.probed (h : Resyncing s f u) : Probed s f u.afterProbe := by
  obtain ⟨hread, htxlen, -⟩ := u.afterProbe_spec
  have hprobe : u.probeFrame = s.probeFrame := by rw [State.probeFrame, State.probeFrame, h.cfg]
  rw [h.cfg] at hread htxlen
  exact { h.layProbe.afterSend u.probeFrame with txlen := htxlen, frame := hread.trans hprobe }

theorem Probed.afterRecv (h : Probed s f u) (n : Nat) : Probed s f (u.afterRecv n) := by
  obtain ⟨⟨hfsm, hab, hag, hcfg, hlast, hrlen, hrx⟩, htxlen, hframe⟩ := h
  have hkept : Resyncing s f (u.afterRecv n) := by constructor <;> simpa
  exact { hkept with txlen := by simpa, frame := by simpa }

theorem Probed.setEnd (h : Probed s f u) (st : Byte) (info : Word) (g : Fsm) :
    Probed s g { u with status := st, errinfo := info, fsm := g } :=
  { h with fsm := rfl, frame := (u.memRead_setEnd st info g .txbuf _ _).trans h.frame }

theorem Probed.aborts (h : Probed s f u) : EndedAborted s (u.raise .aborted 0) :=
  { h.setEnd 0x0D 0 .idle with status := rfl, errinfo := rfl }

theorem Resyncing.step (h : Resyncing s f u) {t : State} {P : State → Prop} (ht : u.blockStep = .next t) (hP : P t) :
    ReachesWithin 1 u P := .step ((step_block h.undisturbed).trans ht) hP

/-- From RS_DRAIN one step ends (43 R177). -/
theorem Probed.rsDrain_ends (h : Probed s .rsDrain u) : ReachesWithin 1 u (EndedAborted s) :=
  h.step (blockStep_rsDrain h.fsm) (h.afterRecv _).aborts

/-- From RS_ACK two steps end (43 R176). -/
theorem Probed.rsAck_ends (h : Probed s .rsAck u) : ReachesWithin 2 u (EndedAborted s) := by
  refine ReachesWithin.trans (P := fun v => EndedAborted s v ∨ Probed s .rsDrain v) (m := 1) (n := 1)
    (h.step (blockStep_rsAck h.fsm) ?_) fun v hv => hv.elim .now Probed.rsDrain_ends
  split
  · exact .inr ((h.afterRecv 6).setEnd _ _ .rsDrain)
  · exact .inl (h.afterRecv 6).aborts

/-- From RS_SEND three steps end (43 R175). -/
theorem Resyncing.rsSend_ends (h : Resyncing s .rsSend u) : ReachesWithin 3 u (EndedAborted s) := by
  refine ReachesWithin.trans (P := fun v => EndedAborted s v ∨ Probed s .rsAck v) (m := 1) (n := 2)
    (h.step (blockStep_rsSend h.fsm) ?_) fun v hv => hv.elim .now Probed.rsAck_ends
  split
  · exact .inr (h.probed.setEnd _ _ .rsAck)
  · exact .inl h.probed.aborts

/-- From RS_WAKE four steps end (43 R174). -/
theorem Resyncing.rsWake_ends (h : Resyncing s .rsWake u) : ReachesWithin 4 u (EndedAborted s) :=
  ReachesWithin.trans (m := 1) (n := 3)
    (h.step (blockStep_rsWake h.fsm) ((h.afterSend u.cfg.wakeupFrame).setFsm .rsSend)) fun _ => Resyncing.rsSend_ends

end

/-- Settles O57: the abort is taken, and the re-synchronisation ends within four steps more. -/
theorem pendingAbortEndsAborted : Obligations.PendingAbortEndsAborted := by
  unfold Obligations.PendingAbortEndsAborted
  intro s hab hf hag
  have htaken : step s = .next s.takeAbort := (step_block hag).trans (pendingAbortIsTaken s hab hf)
  obtain ⟨n, t, hn, hrun, ht⟩ :=
    (ReachesWithin.step htaken (Resyncing.start hag)).trans (n := 4) fun _ => Resyncing.rsWake_ends
  exact ⟨n, t, hn, hrun, ht.fsm, ht.status, ht.errinfo, ht.no_abort, ht.lastcmd, ht.rlen, ht.rxbuf,
    ht.txlen, ht.frame⟩

end Sys2Proof.Machine

/-! PROOF. The target descriptor decoder of 49_descriptor_decoder.md, beside the block: ATQA (R187, R188), the frame-size
table and the layout of an ATS (R190, R194), the historical bytes' category (R192), and what the two decoders return (R186,
R189, R191, R193). -/

namespace Sys2Proof.Machine.Descriptor

/-! ### ATQA -/

/-- The value of `atqa[1][7:6]` that means the class (49 R187). -/
def UidClass.code : UidClass → Nat
  | .single => 0
  | .double => 1
  | .triple => 2
  | .unknown => 3

theorem uidClass_eq_iff (a : Byte) (c : UidClass) : uidClass a = c ↔ a.toNat / 64 = c.code := by
  have hshift : (a >>> 6).toNat = a.toNat / 64 := by rw [BitVec.toNat_ushiftRight, Nat.shiftRight_eq_div_pow]
  have hlt : a.toNat / 64 < 4 := Nat.div_lt_of_lt_mul a.isLt
  rw [uidClass, hshift]
  generalize a.toNat / 64 = q at hlt
  interval_cases q <;> cases c <;> decide

theorem anticollisionBits_toNat (a : Byte) : (anticollisionBits a).toNat = a.toNat % 32 := by
  rw [anticollisionBits, BitVec.toNat_and]
  exact Nat.and_two_pow_sub_one_eq_mod a.toNat 5

/-- The five values R188 lists are the powers of two up to 16. -/
theorem anticollisionSupported_iff (a : Byte) :
    anticollisionSupported a = true ↔ ∃ k, k ≤ 4 ∧ a.toNat % 32 = 2 ^ k := by
  have hpowers : ([0x01, 0x02, 0x04, 0x08, 0x10] : List Byte) = (List.range 5).map (BitVec.twoPow 8) := by decide
  have hpow : ∀ k ≤ 4, (BitVec.twoPow 8 k).toNat = 2 ^ k := by decide
  rw [anticollisionSupported, List.contains_iff_mem, hpowers, List.mem_map, ← anticollisionBits_toNat]
  constructor
  · rintro ⟨k, hk, h⟩
    have hk : k ≤ 4 := Nat.le_of_lt_succ (List.mem_range.mp hk)
    exact ⟨k, hk, h ▸ hpow k hk⟩
  · rintro ⟨k, hk, h⟩
    exact ⟨k, List.mem_range.mpr (Nat.lt_succ_of_le hk), BitVec.eq_of_toNat_eq ((hpow k hk).trans h.symm)⟩

/-- Settles O58: the class and the test for every byte, then the source's examples (49 R195). -/
theorem atqaDecoding : Obligations.AtqaDecoding := by
  unfold Obligations.AtqaDecoding
  exact ⟨fun a => ⟨uidClass_eq_iff a .single, uidClass_eq_iff a .double, uidClass_eq_iff a .triple,
    uidClass_eq_iff a .unknown, anticollisionSupported_iff a⟩, by decide⟩

/-! ### The frame-size table and the ATS layout -/

/-- The table, with its fallback said apart (49 R190). -/
theorem maxFrame_eq (k : Nat) :
    maxFrame k = if k < 9 then [16, 24, 32, 40, 48, 64, 96, 128, 256].getD k 0 else 16 := by
  rw [maxFrame]
  split
  case isTrue hk => rw [List.getD_eq_getElem _ _ hk, List.getD_eq_getElem _ _ hk]
  case isFalse hk => exact List.getD_eq_default _ _ (Nat.le_of_not_lt hk)

/-- One interface byte: it is announced and missing, or it is taken exactly if announced (49 R190, R194). -/
theorem takeIf_cases (p : Bool) (bs : List Byte) :
    bs.length < p.toNat ∧ takeIf p bs = .error .malformedDescriptor ∨
    ∃ o r, takeIf p bs = .ok (o, r) ∧ o.isSome = p ∧ o.toList ++ r = bs ∧ bs.length = p.toNat + r.length := by
  match p, bs with
  | false, bs => exact .inr ⟨none, bs, rfl, rfl, rfl, (Nat.zero_add _).symm⟩
  | true, [] => exact .inl ⟨Nat.zero_lt_one, rfl⟩
  | true, b :: bs => exact .inr ⟨some b, bs, rfl, rfl, rfl, Nat.add_comm _ _⟩

/-- How many interface bytes T0 announces (49 R190). -/
def announced (t0 : Byte) : Nat := (t0.getLsbD 4).toNat + (t0.getLsbD 5).toNat + (t0.getLsbD 6).toNat

/-- `a` is the layout of the bytes `rest` behind T0 (49 R190). -/
structure Ats.LaysOut (a : Ats) (t0 : Byte) (rest : List Byte) : Prop where
  bytes : a.ta1.toList ++ a.tb1.toList ++ a.tc1.toList ++ a.historical = rest
  ta1 : a.ta1.isSome = t0.getLsbD 4
  tb1 : a.tb1.isSome = t0.getLsbD 5
  tc1 : a.tc1.isSome = t0.getLsbD 6
  fsci : a.fsci = t0.toNat % 16
  maxFrame : a.maxFrame = Descriptor.maxFrame (t0.toNat % 16)

/-- An ATS is too short for what T0 announces, or it is laid out. -/
theorem decodeAts_cases (t0 : Byte) (rest : List Byte) :
    rest.length < announced t0 ∧ decodeAts t0 rest = .error .malformedDescriptor ∨
    announced t0 ≤ rest.length ∧ ∃ a, decodeAts t0 rest = .ok a ∧ a.LaysOut t0 rest := by
  unfold announced decodeAts
  obtain ⟨hshort, h1⟩ | ⟨ta1, r1, h1, hta1, hr1, hlen1⟩ := takeIf_cases (t0.getLsbD 4) rest
  · exact .inl ⟨by omega, by rw [h1]⟩
  obtain ⟨hshort, h2⟩ | ⟨tb1, r2, h2, htb1, hr2, hlen2⟩ := takeIf_cases (t0.getLsbD 5) r1
  · exact .inl ⟨by omega, by simp only [h1, h2]⟩
  obtain ⟨hshort, h3⟩ | ⟨tc1, r3, h3, htc1, hr3, hlen3⟩ := takeIf_cases (t0.getLsbD 6) r2
  · exact .inl ⟨by omega, by simp only [h1, h2, h3]⟩
  refine .inr ⟨by omega, _, by simp only [h1, h2, h3]; rfl, ?_⟩
  exact { bytes := by simp only [List.append_assoc, hr1, hr2, hr3], ta1 := hta1, tb1 := htb1, tc1 := htc1,
          fsci := rfl, maxFrame := rfl }

/-- Settles O59: the two cases exclude each other by the number of bytes. -/
theorem atsLayout : Obligations.AtsLayout := by
  unfold Obligations.AtsLayout
  rintro t0 rest _ rfl
  obtain ⟨hshort, herr⟩ | ⟨henough, a, hok, hlay⟩ := decodeAts_cases t0 rest
  · exact ⟨fun _ => herr, fun h => absurd hshort (Nat.not_lt.mpr h)⟩
  · exact ⟨fun h => absurd henough (Nat.not_le.mpr h), fun _ => ⟨a, hok, hlay.bytes, hlay.ta1, hlay.tb1, hlay.tc1,
      hlay.fsci, hlay.maxFrame.trans (maxFrame_eq _)⟩⟩

/-! ### The category of the historical bytes -/

section

variable (m : Masks) {h : Byte} (more : List Byte)

theorem category_compactTlv (hh : h = 0x00 ∨ h = 0x80 ∨ h = 0x10) :
    category m (h :: more) = some (.compactTlv h) := if_pos hh

theorem category_proprietaryC1 :
    category m (0xC1 :: more) = some (.proprietaryC1 (field more m.chipType) (field more m.memorySize)
      (field more m.cardStatus) (field more m.generation) (field more m.virtualCard)) := rfl

theorem category_uninterpreted (h00 : h ≠ 0x00) (h80 : h ≠ 0x80) (h10 : h ≠ 0x10) (hC1 : h ≠ 0xC1) :
    category m (h :: more) = some (.uninterpreted h) := by
  simp only [category, h00, h80, h10, hC1, or_self, if_false]

end

/-! ### What the decoders return -/

section

variable (m : Masks) (uid : List Byte) (a0 a1 sak : Byte)

/-- The layout's failure is the decoder's (49 R194). -/
theorem decodeA_of_error {t0 : Byte} {rest : List Byte} {e : ErrKind} (h : decodeAts t0 rest = .error e) :
    decodeA m uid a0 a1 sak (t0 :: rest) = .error e := by
  rw [decodeA, h]

/-- Without an ATS, and with one that is laid out, the ISO14443A arm holds what the card gave (49 R186). -/
theorem decodeA_of_ok {ats : List Byte} {x : Option Ats}
    (h : ats = [] ∧ x = none ∨ ∃ t0 rest a, ats = t0 :: rest ∧ decodeAts t0 rest = .ok a ∧ x = some a) :
    decodeA m uid a0 a1 sak ats = .ok (.iso14443a uid a0 a1 sak ats (decodedA m a1 sak x)) := by
  obtain ⟨rfl, rfl⟩ | ⟨t0, rest, a, rfl, ha, rfl⟩ := h
  · rfl
  · rw [decodeA, ha]

end

/-- Settles O60: each arm's quantities are `decodedA`'s and `decodedB`'s, field by field. -/
theorem decodersReturnTheTarget : Obligations.DecodersReturnTheTarget := by
  unfold Obligations.DecodersReturnTheTarget
  refine ⟨fun _ _ => rfl, fun m uid a0 a1 sak ats => ⟨?_, fun x hx => ?_⟩, fun m pupi app i0 i1 i2 => ?_⟩
  · rintro t0 rest e rfl he
    exact decodeA_of_error m uid a0 a1 sak he
  · refine ⟨decodedA m a1 sak x, decodeA_of_ok m uid a0 a1 sak hx, rfl, rfl, anticollisionBits_toNat a1, rfl, rfl, rfl, rfl,
      rfl, rfl, rfl, rfl, rfl, fun hnone => by subst hnone; rfl, ?_⟩
    rintro a rfl
    have hcat : (decodedA m a1 sak (some a)).category = category m a.historical := rfl
    rw [hcat]
    refine ⟨fun hnil => by rw [hnil]; rfl, fun h more hmore => ?_⟩
    rw [hmore]
    exact ⟨category_compactTlv m more, fun hC1 => hC1 ▸ category_proprietaryC1 m more, category_uninterpreted m more⟩
  · have hbit : i1.getLsbD 0 = true ↔ i1.toNat % 2 = 1 := by
      rw [BitVec.getLsbD, Nat.testBit_zero, decide_eq_true_iff]
    exact ⟨decodedB m i0 i1 i2, rfl, rfl, rfl, rfl, maxFrame_eq _, hbit, rfl, rfl, rfl⟩

end Sys2Proof.Machine.Descriptor

/-! PROOF. The refusals of 60_exceptions.md: an operation or a layout is started in IDLE only, and only where its access
lies inside the buffer (R216, R217). -/

namespace Sys2Proof.Machine

/-- Every operation and every layout goes through the test that comes before anything else (60 R219). -/
theorem exec_eq_start {i : Instr} (hi : isOperation i = true ∨ isLayout i = true) (s : State) :
    ∃ ok t, exec i s = s.start ok t := by
  cases i with
  | crca | crcaApp | crcb | crcbApp | dcs | casc | fbuild | fcmd | frecv | crcPair | casc4 | casc7 | casc10 =>
    exact ⟨_, _, rfl⟩
  | nfH2C | nfC2H | ack | err | apperr | ext | wake => exact hi.elim nofun nofun

/-- In IDLE a start that needs `n` bytes of `b` from index `k` on is refused when they end outside `b` (60 R217). -/
theorem start_outside {s : State} (hf : s.fsm = .idle) {b : Buf} {k n : Nat} (h : bufCapacity s.cfg b < k + n)
    (t : State) : s.start (s.fits b k n) t = .refused .outsideBuffer := by
  have hout : s.fits b k n = false := decide_eq_false (Nat.not_le.mpr h)
  rw [State.start, if_pos hf, hout]
  rfl

/-- Settles O42: the start tests the state first, whichever the operation. -/
theorem busyBlockRefuses : Obligations.BusyBlockRefuses := by
  unfold Obligations.BusyBlockRefuses
  intro s i hi hf
  obtain ⟨ok, t, hstart⟩ := exec_eq_start hi s
  rw [hstart]
  exact if_neg hf

/-- Settles O43: each refusal is its buffer's; the other operations and layouts start without a test of a buffer. -/
theorem outsideBufferIsRefused : Obligations.OutsideBufferIsRefused := by
  unfold Obligations.OutsideBufferIsRefused
  intro s hf
  refine ⟨fun h => ?_, fun h => ?_, fun h => ?_, fun h => ?_, fun i hi => ?_⟩
  · have hdata : bufCapacity s.cfg .dbuf < 0 + s.len.toNat := by rwa [Nat.zero_add]
    exact ⟨start_outside hf hdata _, start_outside hf hdata _⟩
  · have happend : bufCapacity s.cfg .dbuf < s.len.toNat + 2 := h
    exact ⟨start_outside hf happend _, start_outside hf happend _, fun _ _ => start_outside hf happend _⟩
  · have hpayload : bufCapacity s.cfg .pbuf < 0 + s.len.toNat := by rwa [Nat.zero_add]
    exact start_outside hf hpayload _
  · have hresponse : bufCapacity s.cfg .rxbuf < 0 + s.cap.toNat := by rwa [Nat.zero_add]
    exact start_outside hf hresponse _
  · cases i with
    | fbuild | fcmd | casc | casc4 | casc7 | casc10 => exact ⟨_, start_idle hf rfl⟩
    | _ => simp [Instr.port] at hi

end Sys2Proof.Machine

/-! PROOF. Reset and hazards of 70_reset_and_hazards.md: what the reset event gives (R231, R232), what the checksum
operations, DCS and CASC leave alone (R234), when a HOST write is accepted (R240), and that every accepted operation
ends in IDLE (R250, R251). -/

namespace Sys2Proof.Machine

/-! ### Reset -/

/-- After a reset no byte of a buffer is written (70 R231). -/
theorem State.resetEvent_buf (s : State) (b : Buf) : s.resetEvent.buf b = [] := by
  cases b <;> rfl

/-- Settles O46: the values are R231's, and the fields of the other agents are those of the state before. -/
theorem resetEventGivesResetValues : Obligations.ResetEventGivesResetValues := by
  unfold Obligations.ResetEventGivesResetValues
  intro s rest hag
  exact ⟨State.resetEvent { s with agenda := rest }, step_event hag, rfl, rfl, rfl, rfl, rfl, State.resetEvent_buf _,
    rfl, rfl, rfl, rfl, rfl⟩

/-! ### The operations that leave the codec alone -/

/-- `s` after an operation that has ended and has written nothing but DBUF, CASCBUF, its result registers and the status
pair. -/
inductive LocalEffect (s : State) : State → Prop where
  | mk (dbuf cascbuf : Memory) (crcr : Half) (dcsr : Byte) (rlen : Half) (status : Byte) (errinfo : Word) :
      LocalEffect s { s with
        dbuf := dbuf, cascbuf := cascbuf, crcr := crcr, dcsr := dcsr, rlen := rlen, status := status,
        errinfo := errinfo, fsm := .idle }

theorem finishCrc_localEffect (s : State) (c : Half) : LocalEffect s (s.finishCrc c) := .mk ..

theorem appendCrc_localEffect (s : State) (c : Half) : LocalEffect s (s.appendCrc c) := .mk ..

theorem layCascade_localEffect (s : State) (bs : List Byte) : LocalEffect s (s.layCascade bs) := .mk ..

theorem dcsr_localEffect (s : State) (d : Byte) : LocalEffect s { s.done with dcsr := d } := .mk ..

theorem raise_localEffect (s : State) (e : ErrKind) (info : Word) : LocalEffect s (s.raise e info) := .mk ..

/-- CASC lays its encoding down or refuses the length (41 R121). -/
theorem cascade_localEffect (s : State) : LocalEffect s s.cascade := by
  unfold State.cascade
  split
  · split
    · exact layCascade_localEffect s _
    · exact raise_localEffect s _ _
  · exact raise_localEffect s _ _

/-- Settles O53: the six operations have local effects only. -/
theorem checksumAndCascadeLeaveTheCodec : Obligations.ChecksumAndCascadeLeaveTheCodec := by
  unfold Obligations.ChecksumAndCascadeLeaveTheCodec
  intro s t i hi h
  have hlocal : LocalEffect s t := by
    obtain rfl | rfl | rfl | rfl | rfl | rfl := hi <;> obtain ⟨-, -, rfl⟩ := start_next h
    · exact finishCrc_localEffect s s.crcA
    · exact appendCrc_localEffect s s.crcA
    · exact finishCrc_localEffect s s.crcB
    · exact appendCrc_localEffect s s.crcB
    · exact dcsr_localEffect s _
    · exact cascade_localEffect s
  cases hlocal
  exact ⟨rfl, rfl, rfl, rfl, rfl, rfl, rfl, rfl, rfl, rfl, rfl, rfl, rfl⟩

/-! ### HOST writes -/

/-- Outside IDLE the HOST's write is refused. -/
theorem step_host_busy {s : State} {w : HostWrite} {rest : List Event} (hag : s.agenda = .host w :: rest)
    (hf : s.fsm ≠ .idle) : step s = .refused .hostWriteBusy := by
  rw [step_event hag, State.runEvent, State.hostWrite, if_neg hf]

/-- In IDLE the step is the store of what the write names. -/
theorem step_host_idle {s : State} {w : HostWrite} {rest : List Event} (hag : s.agenda = .host w :: rest)
    (hf : s.fsm = .idle) : step s = State.hostStore { s with agenda := rest } w := by
  rw [step_event hag, State.runEvent, State.hostWrite, if_pos hf]

theorem hostStore_outside {s : State} {b : Buf} {i : Nat} {vs : List Byte}
    (h : bufCapacity s.cfg b < i + vs.length) : s.hostStore (.bytes b i vs) = .refused .outsideBuffer :=
  if_neg (by simpa [State.fits] using h)

theorem hostStore_inside {s : State} {b : Buf} {i : Nat} {vs : List Byte}
    (h : i + vs.length ≤ bufCapacity s.cfg b) : s.hostStore (.bytes b i vs) = .next (s.memWrite b i vs) :=
  if_pos (decide_eq_true h)

/-- A write touches the one buffer only: with its old contents back, the state is the old one. -/
theorem State.memWrite_frame (s : State) (b : Buf) (i : Nat) (vs : List Byte) :
    (s.memWrite b i vs).setBuf b (s.buf b) = s := by
  cases b <;> rfl

/-- Settles O44: in IDLE each register write is its own next state, and a write of bytes is the buffer's write. -/
theorem hostWritesInIdleOnly : Obligations.HostWritesInIdleOnly := by
  unfold Obligations.HostWritesInIdleOnly
  intro s w rest hag
  refine ⟨step_host_busy hag, fun hf => ?_⟩
  have hstep := step_host_idle hag hf
  refine ⟨?_, ?_, ?_, ?_, ?_, ?bytes⟩
  case bytes =>
    rintro b i vs rfl
    refine ⟨fun hout => hstep.trans (hostStore_outside hout), fun hin =>
      ⟨_, hstep.trans (hostStore_inside hin), State.memRead_memWrite .., fun b' a hout => ?_,
        State.memWrite_frame { s with agenda := rest } b i vs⟩⟩
    exact State.readByte_memWrite_out _ hout
  all_goals
    rintro v rfl
    exact hstep

/-! ### Every operation ends in IDLE -/

/-- The event is a step of the BLOCK, the CANCELLER or the TRANSPORT: the HOST is blocked, and there is no reset. -/
def Event.DuringOperation (e : Event) : Prop :=
  e = .block ∨ e = .abort ∨ (∃ bs, e = .arrive bs) ∨ ∃ bs, e = .wire bs

namespace State

@[simp] theorem layProbe_agenda (s : State) : s.layProbe.agenda = s.agenda := rfl
@[simp] theorem loseRxPayload_agenda (s : State) : s.loseRxPayload.agenda = s.agenda := rfl
@[simp] theorem onPayload_agenda (s : State) (bs : List Byte) : (s.onPayload bs).agenda = s.agenda := rfl
@[simp] theorem cancel_agenda (s : State) : s.cancel.agenda = s.agenda := by unfold State.cancel; split <;> rfl

end State

theorem OpEffect.agenda_eq {s t : State} (e : OpEffect s t) : t.agenda = s.agenda := by
  cases e <;> rfl

theorem HostEffect.agenda_eq {s t : State} (e : HostEffect s t) : t.agenda = s.agenda := by
  cases e with
  | bytes b i vs => exact State.memWrite_agenda s b i vs
  | len | cmd | tfi | cap | tmo => rfl

theorem BlockEffect.agenda_eq {s t : State} (e : BlockEffect s t) : t.agenda = s.agenda := by
  cases e <;> simp

/-- No effect touches the events still to come (log 1). -/
theorem Effect.agenda_eq {s t : State} (e : Effect s t) : t.agenda = s.agenda := by
  cases e with
  | op _ e => exact e.agenda_eq
  | block e => exact e.agenda_eq
  | arrive | reset => rfl
  | arriveBlock _ e => exact e.agenda_eq
  | host _ e => exact e.agenda_eq
  | cancel => exact s.cancel_agenda

/-- A first step, and then a run from where it has led. -/
theorem ReachesWithin.step_then {n : Nat} {s t : State} {P : State → Prop} (h : Machine.step s = .next t)
    (ht : ReachesWithin n t P) : ReachesWithin (n + 1) s P := by
  obtain ⟨k, u, hk, hrun, hu⟩ := ht
  exact ⟨k + 1, u, Nat.succ_le_succ hk, (run_next core h k).trans hrun, hu⟩

/-- In a good state such an event is never refused: the BLOCK's step exists, before and after bytes arrive. -/
theorem State.Inv.runEvent_defined {s : State} (hi : s.Inv) {e : Event} (he : e.DuringOperation) :
    ∃ t, s.runEvent e = .next t := by
  obtain rfl | rfl | ⟨bs, rfl⟩ | ⟨bs, rfl⟩ := he
  · exact hi.blockStep_defined
  · exact ⟨_, rfl⟩
  · exact ⟨_, rfl⟩
  · rw [runEvent_wire, State.receive]
    split
    · exact (hi.setPendingAgenda (s.pending ++ bs) s.agenda).blockStep_defined
    · exact ⟨_, rfl⟩

/-- One step takes the event off the agenda and leads from a good state to a good one. -/
theorem State.Inv.step_event_defined {s : State} (hi : s.Inv) {e : Event} {rest : List Event}
    (hag : s.agenda = e :: rest) (he : e.DuringOperation) : ∃ t, step s = .next t ∧ t.Inv ∧ t.agenda = rest := by
  have hi' := hi.setPendingAgenda s.pending rest
  obtain ⟨t, ht⟩ := hi'.runEvent_defined he
  have heff := runEvent_effect ht
  exact ⟨t, (step_event hag).trans ht, heff.keeps_inv hi', heff.agenda_eq⟩

/-- The events still to come are used up in as many steps. -/
theorem State.Inv.reaches_undisturbed {as : List Event} (has : ∀ e ∈ as, e.DuringOperation) :
    ∀ {s : State}, s.Inv → s.agenda = as → ReachesWithin as.length s fun t => t.Inv ∧ t.agenda = [] := by
  induction as with
  | nil => exact fun hi hag => .now ⟨hi, hag⟩
  | cons e rest ih =>
    intro s hi hag
    obtain ⟨he, hrest⟩ := List.forall_mem_cons.mp has
    obtain ⟨t, ht, hit, hagt⟩ := hi.step_event_defined hag he
    exact .step_then ht (ih hrest hit hagt)

theorem Fsm.eq_idle_of_rank {f : Fsm} (h : f.rank = 0) : f = .idle := by
  revert h
  cases f <;> decide

theorem Fsm.rank_le (f : Fsm) : f.rank ≤ 8 := by
  cases f <;> decide

/-- With no other agent acting, the BLOCK is in IDLE within as many steps as its rank bounds: every step lowers it. -/
theorem State.Inv.reaches_idle (n : Nat) : ∀ {s : State}, s.Inv → s.agenda = [] → s.fsm.rank ≤ n →
    ReachesWithin n s fun t => t.fsm = .idle := by
  induction n with
  | zero => exact fun _ _ hr => .now (Fsm.eq_idle_of_rank (Nat.le_zero.mp hr))
  | succ n ih =>
    intro s hi hag hr
    by_cases hf : s.fsm = .idle
    · exact .now hf
    · obtain ⟨t, ht, hlt⟩ := blockStepMakesProgress s hi hf
      have heff := blockStep_effect ht
      exact .step_then ((step_block hag).trans ht) (ih (heff.keeps_inv hi) (heff.agenda_eq.trans hag) (by omega))

/-- Settles O50: the agenda runs out in as many steps as it has events, and then the BLOCK alone needs at most eight. -/
theorem everyOperationReturnsToIdle : Obligations.EveryOperationReturnsToIdle := by
  unfold Obligations.EveryOperationReturnsToIdle
  intro s hi hagenda
  exact (State.Inv.reaches_undisturbed hagenda hi rfl).trans (n := 8) fun t ⟨hit, hag⟩ =>
    hit.reaches_idle 8 hag t.fsm.rank_le

end Sys2Proof.Machine
